-- ==== Sys2Proof/Word.lean ====
section
/-! DEFINITION. The words of the block: bits, bytes, logical words and ENC's lanes (spec 00_scope.md R6, R8). -/

namespace Sys2Proof

/-- A control bit: 0 = command, 1 = data (00_scope.md R8, R11). -/
abbrev Bit := BitVec 1

/-- A payload byte or a bus byte, `BYTE_W = 8` (00_scope.md R6, R8). -/
abbrev Byte := BitVec 8

/-- A logical word, `WORD_W = 9`: bit 8 the control bit, bits 7:0 the payload (30_encoding.md R61). -/
abbrev Word9 := BitVec 9

/-- ENC's eight input lanes `d[0..7]` (10_state.md R21). -/
abbrev Lanes := Vector Byte 8

/-- ENC's nine output bytes `q[0..8]`, also CSF's latch `blk_q[0..8]` (10_state.md R22, R31). -/
abbrev Block := Vector Byte 9

end Sys2Proof
end

