-- ==== Sys2Proof/Config.lean ====
section
/-! DEFINITION. What an implementation fixes (spec 00_scope.md R6) and the one value the spec leaves free. -/

namespace Sys2Proof

/-- A level of the chip-select pin (00_scope.md R9). -/
inductive PinLevel where
  | low
  | high
  deriving DecidableEq, Repr

/-- The other level of the pin: `CsDeassert` is `PinSet` of it (00_scope.md R9). -/
def PinLevel.other : PinLevel → PinLevel
  | .low => .high
  | .high => .low

/-- What CSF knows of the chip-select line (10_state.md R24, R29). -/
inductive CsState where
  | asserted
  | deasserted
  | unknown
  deriving DecidableEq, Repr

/-- The block's OPEN parameters with the defaults of 00_scope.md R6, fixed when the block is built (10_state.md R30).
`State` carries them in a field that no step writes, so a statement over states is one over every configuration (log 5). -/
structure Config where
  /-- `HAS_CS`: whether CSF drives a chip-select pin. -/
  hasCs : Bool := true
  /-- `CS_ASSERT_LEVEL`: the pin level that asserts chip-select. -/
  csAssertLevel : PinLevel := .low
  /-- `CS_INIT`: the chip-select line at reset. -/
  csInit : CsState := .unknown
  deriving DecidableEq, Repr

/-- FREE VALUE (20_memory.md R47, log 17): how many bytes of the failed write that is the `k`-th event of the trace
reached the LCD, before the bound `0..m` that `deliveredBytes` puts on it. No body: nothing can be proved of its value. -/
opaque Config.failedWriteDraw : Nat → Nat

/-- The LCD commands that host programs name (70_reset_and_hazards.md R152). -/
inductive CmdName where
  | softwareReset
  | powerOn
  | mirrorOff1
  | mirrorOff2
  | invertOff
  | displayOn
  | column0
  | page0
  deriving DecidableEq, Repr

/-- The OPEN parameters that only host programs use (00_scope.md R6): arguments of those programs, no state of the
block, and without a value of the model's (log 20). -/
structure HostParams where
  /-- `CMD_OPCODE`: the LCD's command opcode table, a total function from command name to byte. -/
  cmdOpcode : CmdName → Byte
  /-- `SETTLE_DELAY_US`, a natural below 2^16. -/
  settleDelayUs : BitVec 16
  /-- `W`: frame-buffer width in columns. -/
  width : Nat
  /-- `H`: frame-buffer height in pages. -/
  height : Nat

end Sys2Proof
end

