-- ==== Sys2Proof/Syntax.lean ====
section
/-! DEFINITION. The operations of spec/opcode_table.json and the encoded forms in which they are presented
(spec 30_encoding.md R60, R66, R67, R68, R61, R69). -/

namespace Sys2Proof

/-- One constructor per row of spec/opcode_table.json. -/
inductive Instr where
  /-- ENCODE, `n` in 1..8 (40_encoder.md R80). All eight lanes are operands, those from `n` on ignored (R92). -/
  | encode (c : Bit) (n : BitVec 4) (d : Lanes)
  /-- ENCODE_EMPTY, `n = 0` (30_encoding.md R72); `c` and `d` are presented and ignored. -/
  | encodeEmpty (c : Bit) (d : Lanes)
  /-- ENCODE_ILLEGAL, `n` in 9..15 (30_encoding.md R71). -/
  | encodeIllegal (c : Bit) (n : BitVec 4) (d : Lanes)
  /-- SEND(bytes, is_command) (41_framing.md R100). -/
  | send (bytes : List Byte) (isCommand : Bool)
  /-- SEND_COMMAND(byte) (41_framing.md R113). -/
  | sendCommand (byte : Byte)
  /-- CS_ASSERT (41_framing.md R105). -/
  | csAssert
  /-- BUS_WRITE (41_framing.md R106); its bytes come from the request, not from the operation. -/
  | busWrite
  /-- CS_DEASSERT (41_framing.md R108). -/
  | csDeassert
  /-- CMD_WORD: the logical word `0 ++ p` (30_encoding.md R61). -/
  | cmdWord (p : Byte)
  /-- DATA_WORD: the logical word `1 ++ p` (30_encoding.md R61). -/
  | dataWord (p : Byte)
  /-- SET_CONTRAST: the payload byte `100vvvvv` (30_encoding.md R69). -/
  | setContrast (v : BitVec 5)
  deriving DecidableEq, Repr

/-- The format ids of 30_encoding.md R60. `block` is ENC's output; no operation is presented in it. -/
inductive Format where
  | wire9
  | block
  | encoderPort
  | request
  | busEvent
  | payloadByte
  deriving DecidableEq, Repr

/-- The format column of spec/opcode_table.json. -/
def Instr.format : Instr → Format
  | .encode _ _ _ => .encoderPort
  | .encodeEmpty _ _ => .encoderPort
  | .encodeIllegal _ _ _ => .encoderPort
  | .send _ _ => .request
  | .sendCommand _ => .request
  | .csAssert => .busEvent
  | .busWrite => .busEvent
  | .csDeassert => .busEvent
  | .cmdWord _ => .wire9
  | .dataWord _ => .wire9
  | .setContrast _ => .payloadByte

/-- A request of the host: exactly two forms, no binary encoding (30_encoding.md R67). -/
inductive Request where
  | send (bytes : List Byte) (isCommand : Bool)
  | sendCommand (byte : Byte)
  deriving DecidableEq, Repr

/-- A form in which the host presents an operation. -/
inductive Form where
  /-- ENC's three input ports (10_state.md R21). -/
  | encoderPort (c : Bit) (n : BitVec 4) (d : Lanes)
  /-- A request term (30_encoding.md R67). -/
  | request (r : Request)
  /-- A 9-bit logical word (30_encoding.md R61). -/
  | wire9 (w : Word9)
  /-- A command opcode carried as a payload byte (30_encoding.md R69). -/
  | payloadByte (p : Byte)
  /-- A bare word numbered as spec/opcode_table.json numbers it, without its format's name (log 18). -/
  | bits (nbits w : Nat)
  deriving DecidableEq, Repr

/-- One collaborator call as CSF makes it (30_encoding.md R68). The bytes of `BusWrite` are the latch's. -/
inductive BusCall where
  | pinSet (level : PinLevel)
  | busWrite
  deriving DecidableEq, Repr

/-- An operation in an encoded form: presented by the host, or called by CSF itself. -/
inductive Encoded where
  | form (f : Form)
  | call (k : BusCall)
  deriving DecidableEq, Repr

/-- The format an encoded operation is in; a bare word does not say. -/
def Encoded.format : Encoded → Option Format
  | .form (.encoderPort _ _ _) => some .encoderPort
  | .form (.request _) => some .request
  | .form (.wire9 _) => some .wire9
  | .form (.payloadByte _) => some .payloadByte
  | .form (.bits _ _) => none
  | .call _ => some .busEvent

end Sys2Proof
end

