-- ==== Sys2Proof/WellFormed.lean ====
section
/-! DEFINITION. Which terms of `Instr` are operations of the table (spec/opcode_table.json, "condition"). -/

namespace Sys2Proof

/-- Why a term is no operation of the table. -/
inductive IllFormed where
  /-- ENCODE with `n` outside 1..8 (row ENCODE: "1 <= n <= 8"). -/
  | encodeLength
  /-- ENCODE_ILLEGAL with `n` outside 9..15 (row ENCODE_ILLEGAL: "9 <= n <= 15"). -/
  | illegalLength
  deriving DecidableEq, Repr

/-- The check: `none` where the term is an operation of the table. -/
def Instr.illFormed : Instr → Option IllFormed
  | .encode _ n _ => if 1 ≤ n.toNat ∧ n.toNat ≤ 8 then none else some .encodeLength
  | .encodeEmpty _ _ => none
  | .encodeIllegal _ n _ => if 9 ≤ n.toNat then none else some .illegalLength
  | .send _ _ => none
  | .sendCommand _ => none
  | .csAssert => none
  | .busWrite => none
  | .csDeassert => none
  | .cmdWord _ => none
  | .dataWord _ => none
  | .setContrast _ => none

/-- Well-formed: passes every check. -/
abbrev Instr.WellFormed (i : Instr) : Prop := i.illFormed = none

end Sys2Proof
end

