-- ==== Sys2Proof/Decode.lean ====
section
/-! DEFINITION. The decoder, total on every encoded form and rejecting by name, and the encoder written from the same
tables (spec 30_encoding.md R60 to R70). -/

namespace Sys2Proof

/-- Why a presented form is no operation of the table. -/
inductive Reject where
  /-- A payload byte that is not `100vvvvv`: the spec lists no other command opcode (30_encoding.md R69, log 19). -/
  | payloadNotListed (p : Byte)
  /-- A bare word that fits no binary format of the table (log 18). -/
  | noFormat (nbits w : Nat)
  deriving DecidableEq, Repr

/-- All eight lanes 0. -/
def zeroLanes : Lanes := Vector.replicate 8 0

/-- ENC's length input is its opcode: 0, 1..8 and 9..15 (30_encoding.md R66, R70 (a)). -/
def decodePorts (c : Bit) (n : BitVec 4) (d : Lanes) : Instr :=
  if n.toNat = 0 then .encodeEmpty c d
  else if n.toNat ≤ 8 then .encode c n d
  else .encodeIllegal c n d

/-- The request form selects the operation (30_encoding.md R70 (b)). -/
def decodeRequest : Request → Instr
  | .send bytes isCommand => .send bytes isCommand
  | .sendCommand byte => .sendCommand byte

/-- `w[8]` selects the word type, `w[7:0]` is the payload (30_encoding.md R61, R70 (c)). -/
def decodeWord9 (w : Word9) : Instr :=
  if w.extractLsb' 8 1 = 0 then .cmdWord (w.extractLsb' 0 8) else .dataWord (w.extractLsb' 0 8)

/-- Bits 7:5 = `100` are the contrast command, bits 4:0 its value (30_encoding.md R69). -/
def decodePayload (p : Byte) : Except Reject Instr :=
  if p.extractLsb' 5 3 = 0b100 then .ok (.setContrast (p.extractLsb' 0 5)) else .error (.payloadNotListed p)

/-- A bare word's format, recognised by its width and bits: up to 8 bits, ENC's 4-bit length (other ports 0) or a payload
byte; up to 16 bits, a 9-bit word (DESIGN CHOICE, log 18: the spec gives the formats no common binary image). -/
def decodeBits (nbits w : Nat) : Except Reject Instr :=
  if nbits ≤ 8 then
    if w < 16 then .ok (decodePorts 0 (BitVec.ofNat 4 w) zeroLanes)
    else if w < 256 then decodePayload (BitVec.ofNat 8 w)
    else .error (.noFormat nbits w)
  else if nbits ≤ 16 ∧ w < 512 then .ok (decodeWord9 (BitVec.ofNat 9 w))
  else .error (.noFormat nbits w)

/-- What the host presents. -/
def decodeForm : Form → Except Reject Instr
  | .encoderPort c n d => .ok (decodePorts c n d)
  | .request r => .ok (decodeRequest r)
  | .wire9 w => .ok (decodeWord9 w)
  | .payloadByte p => decodePayload p
  | .bits nbits w => decodeBits nbits w

/-- The call selects the bus event: `PinSet(CS_ASSERT_LEVEL)`, `PinSet` of the other level, `BusWrite`
(30_encoding.md R68, R70 (d), log 21). -/
def decodeCall (assertLevel : PinLevel) : BusCall → Instr
  | .pinSet level => if level = assertLevel then .csAssert else .csDeassert
  | .busWrite => .busWrite

/-- The decoder. -/
def decode (assertLevel : PinLevel) : Encoded → Except Reject Instr
  | .form f => decodeForm f
  | .call k => .ok (decodeCall assertLevel k)

/-- The instruction the decoder reads from a word numbered as spec/opcode_table.json numbers it (log 18). -/
def decodeTableWord (nbits w : Nat) : Option Instr :=
  match decodeForm (.bits nbits w) with
  | .ok i => some i
  | .error _ => none

/-- A logical word: the control bit above the payload, `w = c ++ p` (30_encoding.md R61). -/
def word9 (c : Bit) (p : Byte) : Word9 := c ++ p

/-- The contrast command's byte `0x80 | (v & 0x1F)`; `v` is already 5 bits wide (30_encoding.md R69). -/
def contrastByte (v : BitVec 5) : Byte := 0x80#8 ||| v.setWidth 8

/-- The encoder: the form in which the table presents an operation. -/
def encode (assertLevel : PinLevel) : Instr → Encoded
  | .encode c n d => .form (.encoderPort c n d)
  | .encodeEmpty c d => .form (.encoderPort c 0 d)
  | .encodeIllegal c n d => .form (.encoderPort c n d)
  | .send bytes isCommand => .form (.request (.send bytes isCommand))
  | .sendCommand byte => .form (.request (.sendCommand byte))
  | .csAssert => .call (.pinSet assertLevel)
  | .busWrite => .call .busWrite
  | .csDeassert => .call (.pinSet assertLevel.other)
  | .cmdWord p => .form (.wire9 (word9 0 p))
  | .dataWord p => .form (.wire9 (word9 1 p))
  | .setContrast v => .form (.payloadByte (contrastByte v))

end Sys2Proof
end

