-- ==== Sys2Proof/Machine/State.lean ====
section
/-! DEFINITION. The machine's state as plain data: CSF's elements (spec 10_state.md R24), ENC's input ports (R21), the
configuration (R30), and what the outside has ready (41_framing.md R110, R112). -/

namespace Sys2Proof.Machine

/-- What CSF does next (10_state.md R25). -/
inductive Phase where
  | idle
  | assert
  | write
  | deassert
  deriving DecidableEq, Repr

/-- The outcome of the last finished request (10_state.md R28); `none` only before the first one ends. -/
inductive Result where
  | none
  | ok
  | busError
  deriving DecidableEq, Repr

/-- The model's fault marks (60_exceptions.md R133). -/
inductive FaultMark where
  | illegalLength
  | busyRequest
  deriving DecidableEq, Repr

/-- The set of raised fault marks: one flag per mark (10_state.md R24). -/
structure FaultMarks where
  illegalLength : Bool := false
  busyRequest : Bool := false
  deriving DecidableEq, Repr

/-- What a returning collaborator call answers (10_state.md R34). -/
inductive CallResult where
  | ok
  | err
  deriving DecidableEq, Repr

/-- Chip-select in the terms in which the trace records it (10_state.md R34, 92_eei_decisions.md D9). -/
inductive CsDrive where
  | assert
  | deassert
  deriving DecidableEq, Repr

/-- A wire event (10_state.md R34). -/
inductive Event where
  | cs (drive : CsDrive) (r : CallResult)
  | write (bytes : List Byte) (r : CallResult)
  | callBegin (len : Nat) (c : Bit)
  | callEnd (result : Result)
  deriving DecidableEq, Repr

/-- What ENC's input ports are driven with (10_state.md R21). ENC itself stores nothing (R20, log 1). -/
structure EncPorts where
  c : Bit
  n : BitVec 4
  d : Lanes
  deriving DecidableEq, Repr

/-- What the host does (10_state.md R23, 30_encoding.md R67, 60_exceptions.md R140, 70_reset_and_hazards.md R150). -/
inductive HostOp where
  /-- Present an operation to the block. -/
  | present (f : Form)
  /-- `delay_us`: the host's own wait, no block operation (70_reset_and_hazards.md R152, log 15). -/
  | delay (us : BitVec 16)
  /-- The block's power-up reset (70_reset_and_hazards.md R150, log 14). -/
  | powerUp
  deriving DecidableEq, Repr

/-- When a host operation reaches the block (log 12). -/
inductive Arrival where
  /-- Once the earlier SEND has returned: the host is blocked until then (41_framing.md R117). -/
  | whenReturned
  /-- At once, whatever CSF is doing: the overlapping arrival of 41_framing.md R112. -/
  | atOnce
  deriving DecidableEq, Repr

/-- A host operation and when it reaches the block. -/
structure HostInput where
  op : HostOp
  arrival : Arrival
  deriving DecidableEq, Repr

/-- The machine's state. -/
structure State where
  /-- The configuration; no step writes it (10_state.md R30, log 5). -/
  cfg : Config
  /-- ENC's input ports (10_state.md R21, log 1). -/
  enc : EncPorts
  /-- What CSF does next (10_state.md R24, R25). -/
  phase : Phase
  /-- The payload bytes of the request being served (10_state.md R24, R26). -/
  req : List Byte
  /-- The control bit of the request (10_state.md R24, R26). -/
  c : Bit
  /-- The number of blocks of the request (10_state.md R24, R26). -/
  nblk : Nat
  /-- The index of the block being served (10_state.md R24, R27). -/
  b : Nat
  /-- `blk_q[0..8]`, the encoded-block latch (10_state.md R24, R31). -/
  blkQ : Block
  /-- `blk_m`, the number of valid bytes in the latch (10_state.md R24, R31). -/
  blkM : Nat
  /-- What CSF knows of the chip-select line (10_state.md R24, R29). -/
  cs : CsState
  /-- The outcome of the last finished request (10_state.md R24, R28). -/
  result : Result
  /-- The sticky fault marks (10_state.md R24, R33). -/
  fault : FaultMarks
  /-- The history of wire events (10_state.md R24, R34). -/
  trace : List Event
  /-- The MODEL's own: what the host has ready, first to come first (log 12). -/
  host : List HostInput
  /-- The MODEL's own: the environment's answers to the coming collaborator calls, in call order; where none is left,
  the call does not return (41_framing.md R110, log 6). -/
  answers : List CallResult
  deriving DecidableEq, Repr

/-- Why the machine stops with a fault. No architectural error is here: BusError is a result (60_exceptions.md R130)
and the spec's fault marks are state (R133). -/
inductive Fault where
  /-- Raised by CS_ASSERT and CS_DEASSERT in a phase that calls for a pin the configuration does not have
  (`HAS_CS = false`: the pin collaborator is not present, 60_exceptions.md R140). SAFE: no run reaches such a state
  (10_state.md R25), and where one is assumed nothing is claimed of it (log 9). -/
  | noChipSelectPin
  deriving DecidableEq, Repr

/-- Why the machine gives no meaning. -/
inductive Refusal where
  /-- Raised by an arm of `exec` whose instruction has no meaning yet. SAFE. No arm does. -/
  | notModelled (mnemonic : String)
  /-- Raised by CS_ASSERT, BUS_WRITE and CS_DEASSERT out of their phase: CSF takes each only in its own phase
  (41_framing.md R105, R106, R108). SAFE: no step runs one out of its phase (log 8). -/
  | outOfPhase (phase : Phase)
  /-- Raised by `step` where the host presents a form that no row of the table has. SAFE (log 18, log 19). -/
  | undecodable (why : Reject)
  /-- Raised by `step` at a power-up reset in mid-request, which "the model refuses" (70_reset_and_hazards.md R150).
  SAFE (log 14). -/
  | resetInProgress
  deriving DecidableEq, Repr

/-- The machine right after reset, built with configuration `cfg`: the values of 10_state.md R35. ENC has no reset
(R20); its input ports are driven with 0 here (DESIGN CHOICE, UNSAFE, log 2), and nothing is ready outside
(DESIGN CHOICE, log 6, log 12). -/
def State.resetWith (cfg : Config) : State where
  cfg := cfg
  enc := { c := 0, n := 0, d := zeroLanes }
  phase := .idle
  req := []
  c := 0
  nblk := 0
  b := 0
  blkQ := Vector.replicate 9 0
  blkM := 0
  cs := cfg.csInit
  result := .none
  fault := {}
  trace := []
  host := []
  answers := []

/-- The machine right after reset, with the OPEN parameters at their defaults (00_scope.md R6, log 5). -/
def State.reset : State := State.resetWith {}

end Sys2Proof.Machine
end

