-- ==== Sys2Proof/Machine/Operands.lean ====
section
/-! DEFINITION. ENC's operand assembly and its algorithm (spec 30_encoding.md R65, 40_encoder.md R80), and the blocks of
a request (41_framing.md R101, R106). -/

namespace Sys2Proof.Machine

/-- Input byte `k`. -/
def lane (d : Lanes) (k : Nat) : Byte := d[k]?.getD 0

/-- Output byte `j`. -/
def outByte (q : Block) (j : Nat) : Byte := q[j]?.getD 0

/-- The control field of word `s`: `c << (7 - s)` (30_encoding.md R65, 40_encoder.md R82). -/
def controlField (c : Bit) (s : Nat) : Byte := c.setWidth 8 <<< (7 - s)

/-- The high part of word `s`: `d[s] >> (s + 1)` (30_encoding.md R65, 40_encoder.md R83). -/
def highField (x : Byte) (s : Nat) : Byte := x >>> (s + 1)

/-- The low part of word `s`: `(d[s] << (7 - s)) & 0xFF` (30_encoding.md R65, 40_encoder.md R84). -/
def lowField (x : Byte) (s : Nat) : Byte := x <<< (7 - s)

/-- `q[j] <- q[j] | v`. -/
def orInto (q : Block) (j : Nat) (v : Byte) : Block := q.setIfInBounds j (outByte q j ||| v)

/-- The body of ENCODE's loop at `s` (40_encoder.md R80). -/
def packWord (c : Bit) (d : Lanes) (s : Nat) (q : Block) : Block :=
  orInto (orInto (orInto q s (controlField c s)) s (highField (lane d s) s)) (s + 1) (lowField (lane d s) s)

/-- ENCODE's loop for `s` in `0 .. n-1` over output bytes that start at 0x00 (40_encoder.md R80, R86). -/
def packWords (c : Bit) (d : Lanes) : Nat → Block
  | 0 => Vector.replicate 9 0
  | s + 1 => packWord c d s (packWords c d s)

/-- ENC's output ports (10_state.md R22). -/
structure EncOut where
  m : BitVec 4
  q : Block
  deriving DecidableEq, Repr

/-- ENCODE of `n` words, `n <= 8`: the bytes of the loop and their number (40_encoder.md R80, R81). -/
def encodeWords (c : Bit) (n : Nat) (d : Lanes) : EncOut where
  m := if n = 0 then 0 else BitVec.ofNat 4 (n + 1)
  q := packWords c d n

/-- ENC: its outputs as a function of its input ports, and none while `n > 8`, where "`q` and `m` are not defined"
(10_state.md R20, 30_encoding.md R71). -/
def encodePorts (p : EncPorts) : Option EncOut :=
  if p.n.toNat > 8 then none else some (encodeWords p.c p.n.toNat p.d)

/-- ENC's outputs in a state: combinational, computed from the ports and never stored (10_state.md R20, log 1). -/
def State.encOut (s : State) : Option EncOut := encodePorts s.enc

/-- `nblk = ceil(len / 8)` (41_framing.md R100, R101). -/
def blockCount (len : Nat) : Nat := (len + 7) / 8

/-- `k_b = min(8, L - 8b)`, the payload bytes of block `b` (41_framing.md R101). -/
def blockLen (len b : Nat) : Nat := min 8 (len - 8 * b)

/-- The payload slice of block `b` (41_framing.md R101). -/
def blockSlice (req : List Byte) (b : Nat) : List Byte := (req.drop (8 * b)).take 8

/-- `for i in 0 .. k-1: d[i] <- req[8b + i]`; the other lanes keep their drive (41_framing.md R106, log 16). -/
def loadLanes (req : List Byte) (b : Nat) (d : Lanes) : Nat → Lanes
  | 0 => d
  | i + 1 => (loadLanes req b d i).setIfInBounds i (req[8 * b + i]?.getD 0)

/-- The valid bytes of an output or of the latch: `q[0 .. m-1]` (20_memory.md R42, 41_framing.md R106). -/
def validBytes (q : Block) (m : Nat) : List Byte := q.toList.take m

end Sys2Proof.Machine
end

