-- ==== Sys2Proof/Machine/Flags.lean ====
section
/-! DEFINITION. The block has no flag but CSF's `result` (spec 10_state.md R28); here are its codes and what it returns to
the host, and the sticky fault marks (60_exceptions.md R133). ENC writes no flag (40_encoder.md R80). -/

namespace Sys2Proof.Machine

/-- The numeric result codes (60_exceptions.md R130). -/
def Result.code : Result → Nat
  | .ok => 0
  | .busError => 1
  | .none => 2

/-- What SEND returns to the host: `Ok(())` or `Err(BusError)` (41_framing.md R117). -/
inductive SendReturn where
  | ok
  | busError
  deriving DecidableEq, Repr

/-- `result` as the return value of SEND; before the first request ends there is none (41_framing.md R117). -/
def Result.returned : Result → Option SendReturn
  | .ok => some .ok
  | .busError => some .busError
  | .none => Option.none

/-- Whether a mark is raised. -/
def FaultMarks.has (f : FaultMarks) : FaultMark → Bool
  | .illegalLength => f.illegalLength
  | .busyRequest => f.busyRequest

/-- A mark added to the set. -/
def FaultMarks.add (f : FaultMarks) : FaultMark → FaultMarks
  | .illegalLength => { f with illegalLength := true }
  | .busyRequest => { f with busyRequest := true }

end Sys2Proof.Machine
end

