-- ==== Sys2Proof/Machine/Ops.lean ====
section
/-! DEFINITION. The operations shared by the meanings: raising a mark, the abort, accepting a request, one collaborator
call, the advance, and what the machine does next (spec 41_framing.md R100 to R112, 60_exceptions.md R133, R136). -/

namespace Sys2Proof.Machine

/-- What one step answers. -/
abbrev StepOutcome := Host.Outcome State Fault Refusal

/-- `trace <- trace ++ [e]` (10_state.md R34). -/
def State.log (e : Event) (s : State) : State := { s with trace := s.trace ++ [e] }

/-- `raise Fault(mark)`: sets the sticky mark and nothing else; the machine goes on (00_scope.md R9, 60_exceptions.md
R133, R135; log 3, log 7). -/
def State.raise (mark : FaultMark) (s : State) : State := { s with fault := s.fault.add mark }

/-- ENC's inputs presented on its ports. A length above 8 raises ILLEGAL_LENGTH; CSF and the collaborators are not
touched (40_encoder.md R80, R88, 30_encoding.md R71). -/
def presentPorts (p : EncPorts) (s : State) : State :=
  if p.n.toNat > 8 then State.raise .illegalLength { s with enc := p } else { s with enc := p }

/-- The end of a request: `result`, `CALL_END(result)` and back to IDLE (41_framing.md R108, R109, R117). -/
def endRequest (r : Result) (s : State) : State :=
  State.log (.callEnd r) { s with result := r, phase := .idle }

/-- TAKING THE BLOCK'S ONE ERROR: the abort. No trap, no saved state, no further call; `cs` keeps what the failing step
left (41_framing.md R109, 60_exceptions.md R136). There is no return from it (R137). -/
def abort (s : State) : State := endRequest .busError s

/-- The phase in which a block starts (41_framing.md R100, R108, R111). -/
def startPhase (cfg : Config) : Phase := if cfg.hasCs then .assert else .write

/-- The accepting step of SEND in IDLE (41_framing.md R100, R102). -/
def startRequest (bytes : List Byte) (isCommand : Bool) (s : State) : State :=
  let c : Bit := if isCommand then 0 else 1
  let t := State.log (.callBegin bytes.length c)
    { s with req := bytes, c := c, nblk := blockCount bytes.length, b := 0 }
  if blockCount bytes.length = 0 then endRequest .ok t else { t with phase := startPhase s.cfg }

/-- A request: accepted in IDLE, else refused with BUSY_REQUEST, the request in progress unchanged (41_framing.md R100,
R112). -/
def accept (bytes : List Byte) (isCommand : Bool) (s : State) : State :=
  if s.phase = .idle then startRequest bytes isCommand s else State.raise .busyRequest s

/-- One collaborator call. The environment's next answer is what it returns, and `returned` is what CSF then does; where
no answer is left the call does not return and CSF stays where it is (41_framing.md R110, log 6). -/
def collaboratorCall (returned : CallResult → State → State) (s : State) : State :=
  match s.answers with
  | [] => s
  | r :: rest => returned r { s with answers := rest }

/-- `advance`: the next block, or the request's end with OK (41_framing.md R108). -/
def advance (s : State) : State :=
  let t := { s with b := s.b + 1 }
  if t.b < t.nblk then { t with phase := startPhase t.cfg } else endRequest .ok t

/-- What CSF does when the asserting pin call returns (41_framing.md R105). -/
def csAssertReturned (r : CallResult) (s : State) : State :=
  let t := State.log (.cs .assert r) s
  match r with
  | .ok => { t with cs := .asserted, phase := .write }
  | .err => abort { t with cs := .unknown }

/-- Block `b` encoded and latched, before the call of `BusWrite`: the lanes are loaded and presented to ENC with
`1 <= k <= 8`, and its outputs go into the latch (41_framing.md R106, R118, 10_state.md R31). -/
def latchBlock (s : State) : State :=
  let k := blockLen s.req.length s.b
  let d := loadLanes s.req s.b s.enc.d k
  let o := encodeWords s.c k d
  { s with enc := { c := s.c, n := BitVec.ofNat 4 k, d := d }, blkQ := o.q, blkM := o.m.toNat }

/-- What CSF does when the bus write returns (41_framing.md R106). -/
def busWriteReturned (r : CallResult) (s : State) : State :=
  let t := State.log (.write (validBytes s.blkQ s.blkM) r) s
  match r with
  | .ok => if t.cfg.hasCs then { t with phase := .deassert } else advance t
  | .err => abort t

/-- What CSF does when the deasserting pin call returns (41_framing.md R108). -/
def csDeassertReturned (r : CallResult) (s : State) : State :=
  let t := State.log (.cs .deassert r) s
  match r with
  | .ok => advance { t with cs := .deasserted }
  | .err => abort { t with cs := .unknown }

/-- A pin call of CSF, taken in its own phase and only where there is a pin (41_framing.md R105, R108; log 8, log 9). -/
def pinEvent (phase : Phase) (returned : CallResult → State → State) (s : State) : StepOutcome :=
  if s.phase = phase then
    if s.cfg.hasCs then .next (collaboratorCall returned s) else .fault .noChipSelectPin
  else .refused (.outOfPhase s.phase)

/-- The block's power-up reset: every CSF element at its value of 10_state.md R35. ENC has no state to reset, so its
ports stay as they are driven, and what the outside has ready stays (70_reset_and_hazards.md R150, log 14). -/
def State.powerUp (s : State) : State :=
  { State.resetWith s.cfg with enc := s.enc, host := s.host, answers := s.answers }

/-- Reset as an input: refused in mid-request (70_reset_and_hazards.md R150). -/
def applyPowerUp (s : State) : StepOutcome :=
  if s.phase = .idle then .next s.powerUp else .refused .resetInProgress

/-- The call CSF makes next (10_state.md R25). -/
def State.nextCall (s : State) : Option BusCall :=
  match s.phase with
  | .idle => none
  | .assert => some (.pinSet s.cfg.csAssertLevel)
  | .write => some .busWrite
  | .deassert => some (.pinSet s.cfg.csAssertLevel.other)

/-- The host operation that reaches the block now, with what the host has ready after it: the first one, if CSF is IDLE
or it arrives at once (41_framing.md R112, R117, log 12). -/
def State.hostReady (s : State) : Option (HostOp × List HostInput) :=
  match s.host with
  | [] => none
  | h :: rest => if s.phase = .idle ∨ h.arrival = .atOnce then some (h.op, rest) else none

/-- What the machine does next. -/
inductive Todo where
  /-- Nothing is asked of it: CSF "waits for its first request" (70_reset_and_hazards.md R150) or for the next one. -/
  | wait
  /-- The host waits by itself; the block does nothing (70_reset_and_hazards.md R152). -/
  | delay (s : State)
  /-- Power-up reset. -/
  | powerUp (s : State)
  /-- An operation, in the state left when its input is taken. -/
  | run (e : Encoded) (s : State)
  deriving DecidableEq, Repr

/-- What the machine does next: the host operation that reaches it, else CSF's own next call. -/
def State.todo (s : State) : Todo :=
  match s.hostReady with
  | some (.present f, rest) => .run (.form f) { s with host := rest }
  | some (.delay _, rest) => .delay { s with host := rest }
  | some (.powerUp, rest) => .powerUp { s with host := rest }
  | none =>
    match s.nextCall with
    | none => .wait
    | some k => .run (.call k) s

end Sys2Proof.Machine
end

