-- ==== Sys2Proof/Machine/Encoder.lean ====
section
/-! DEFINITION. ENC's operations (spec 40_encoder.md R80, 30_encoding.md R71, R72). The outputs follow from the presented
inputs: `State.encOut`. -/

namespace Sys2Proof.Machine

/-- ENCODE (40_encoder.md R80). -/
def execEncode (c : Bit) (n : BitVec 4) (d : Lanes) (s : State) : StepOutcome :=
  .next (presentPorts { c := c, n := n, d := d } s)

/-- ENCODE_EMPTY: `n = 0`, "a no-op (produce zero bytes)" (30_encoding.md R72). -/
def execEncodeEmpty (c : Bit) (d : Lanes) (s : State) : StepOutcome :=
  .next (presentPorts { c := c, n := 0, d := d } s)

/-- ENCODE_ILLEGAL: `Fault(ILLEGAL_LENGTH)` and no output (30_encoding.md R71, 60_exceptions.md R133). -/
def execEncodeIllegal (c : Bit) (n : BitVec 4) (d : Lanes) (s : State) : StepOutcome :=
  .next (presentPorts { c := c, n := n, d := d } s)

end Sys2Proof.Machine
end

