-- ==== Sys2Proof/Machine/Framing.lean ====
section
/-! DEFINITION. CSF's requests and bus events (spec 41_framing.md R100, R105, R106, R108, R113). -/

namespace Sys2Proof.Machine

/-- SEND (41_framing.md R100, R102, R112). -/
def execSend (bytes : List Byte) (isCommand : Bool) (s : State) : StepOutcome :=
  .next (accept bytes isCommand s)

/-- SEND_COMMAND is `SEND([byte], is_command = true)` (41_framing.md R113, 30_encoding.md R76). -/
def execSendCommand (byte : Byte) (s : State) : StepOutcome :=
  .next (accept [byte] true s)

/-- CS_ASSERT (41_framing.md R105). -/
def execCsAssert (s : State) : StepOutcome :=
  pinEvent .assert csAssertReturned s

/-- BUS_WRITE: the block is latched, then written in one call (41_framing.md R106, R107; out of its phase: log 8). -/
def execBusWrite (s : State) : StepOutcome :=
  if s.phase = .write then .next (collaboratorCall busWriteReturned (latchBlock s))
  else .refused (.outOfPhase s.phase)

/-- CS_DEASSERT (41_framing.md R108). -/
def execCsDeassert (s : State) : StepOutcome :=
  pinEvent .deassert csDeassertReturned s

end Sys2Proof.Machine
end

