-- ==== Sys2Proof/Machine/Words.lean ====
section
/-! DEFINITION. The wire word types and the contrast payload as operations: each is the request that puts it on the wire
(spec 30_encoding.md R61, R62, R69, 60_exceptions.md R145; log 10, log 11). -/

namespace Sys2Proof.Machine

/-- CMD_WORD `p`: a request that sends the one word `0 ++ p`; "a SEND with `is_command = true` sends only CMD_WORDs"
(30_encoding.md R61, R62; DESIGN CHOICE, log 10). -/
def execCmdWord (p : Byte) (s : State) : StepOutcome :=
  .next (accept [p] true s)

/-- DATA_WORD `p`: a request that sends the one word `1 ++ p`; "a SEND with `is_command = false` sends only DATA_WORDs"
(30_encoding.md R61, R62; DESIGN CHOICE, log 10). -/
def execDataWord (p : Byte) (s : State) : StepOutcome :=
  .next (accept [p] false s)

/-- SET_CONTRAST `v`: the command byte `0x80 | v` carried "as the payload of a word", sent as one command
(30_encoding.md R69, 60_exceptions.md R145, 70_reset_and_hazards.md R152 step 4; DEDUCED, log 11). -/
def execSetContrast (v : BitVec 5) (s : State) : StepOutcome :=
  .next (accept [contrastByte v] true s)

end Sys2Proof.Machine
end

