-- ==== Sys2Proof/Machine/Dispatch.lean ====
section
/-! DEFINITION. Each operation of the table and its meaning. -/

namespace Sys2Proof.Machine

def exec (i : Instr) (s : State) : Host.Outcome State Fault Refusal :=
  match i with
  | .encode c n d => Sys2Proof.Machine.execEncode c n d s
  | .encodeEmpty c d => Sys2Proof.Machine.execEncodeEmpty c d s
  | .encodeIllegal c n d => Sys2Proof.Machine.execEncodeIllegal c n d s
  | .send bytes isCommand => Sys2Proof.Machine.execSend bytes isCommand s
  | .sendCommand byte => Sys2Proof.Machine.execSendCommand byte s
  | .csAssert => Sys2Proof.Machine.execCsAssert s
  | .busWrite => Sys2Proof.Machine.execBusWrite s
  | .csDeassert => Sys2Proof.Machine.execCsDeassert s
  | .cmdWord p => Sys2Proof.Machine.execCmdWord p s
  | .dataWord p => Sys2Proof.Machine.execDataWord p s
  | .setContrast v => Sys2Proof.Machine.execSetContrast v s

end Sys2Proof.Machine
end

