-- ==== Sys2Proof/Machine/Step.lean ====
section
/-! DEFINITION. One step of the machine, and where a presented operation is placed. -/

namespace Sys2Proof.Machine

/-- One step: what the machine does next, done. Waiting and the host's own delay leave the block as it is. -/
def step (s : State) : Host.Outcome State Fault Refusal :=
  match s.todo with
  | .wait => .next s
  | .delay t => .next t
  | .powerUp t => applyPowerUp t
  | .run e t =>
    match decode t.cfg.csAssertLevel e with
    | .ok i => exec i t
    | .error why => .refused (.undecodable why)

/-- `s` with an operation word presented so that the very next step takes it: first in the host's list, arriving at once.
The block fetches nothing (20_memory.md R53); this stands for the host's presenting the operation (log 13, log 18). -/
def State.withFetchWord (s : State) (nbits w : Nat) : State :=
  { s with host := { op := .present (.bits nbits w), arrival := .atOnce } :: s.host }

end Sys2Proof.Machine
end

