-- ==== Sys2Proof/Machine/Wire.lean ====
section
/-! DEFINITION. What the wire carries, computed from ENC's outputs and from the trace (spec 20_memory.md R42 to R47,
40_encoder.md R90, R93, 41_framing.md R119). Nothing in the block reads these views. -/

namespace Sys2Proof.Machine

/-- The bits of a bus byte in the order the bus sends them: bit 7 first (20_memory.md R43). -/
def byteBits (x : Byte) : List Bit := (List.range 8).map fun i => x.extractLsb' (7 - i) 1

/-- The bits of a byte list in the order sent: first byte first (20_memory.md R42, R43). -/
def streamBits (bytes : List Byte) : List Bit := bytes.flatMap byteBits

/-- A logical word on the wire: the control bit, then the payload MSB first (30_encoding.md R61). -/
def wordBits (c : Bit) (p : Byte) : List Bit := c :: byteBits p

/-- Words of one control bit laid end to end: the string `S` of 40_encoder.md R90 before its padding. -/
def wordsBits (c : Bit) (payload : List Byte) : List Bit := payload.flatMap (wordBits c)

/-- The control bit of an encoded block, `c = q[0][7]` (40_encoder.md R93). -/
def unpackControl (q : Block) : Bit := (outByte q 0).extractLsb' 7 1

/-- Payload `s` of an encoded block, `(q[s][6-s:0] << (s+1)) | q[s+1][7:7-s]` (40_encoder.md R93): the shift to the left
drops the bits of `q[s]` above bit `6-s`, the shift to the right leaves the bits of `q[s+1]` from bit `7-s` up. -/
def unpackPayload (q : Block) (s : Nat) : Byte := outByte q s <<< (s + 1) ||| outByte q (s + 1) >>> (7 - s)

/-- The first byte a block of payload bytes gives the bus, to the last: ENC's valid output bytes (41_framing.md R106). -/
def encodedBytes (c : Bit) (payload : List Byte) : List Byte :=
  let o := encodeWords c payload.length (loadLanes payload 0 zeroLanes payload.length)
  validBytes o.q o.m.toNat

/-- The pin level of a drive: `CS_ASSERT_LEVEL` or the other one (00_scope.md R9). -/
def CsDrive.level (cfg : Config) : CsDrive → PinLevel
  | .assert => cfg.csAssertLevel
  | .deassert => cfg.csAssertLevel.other

/-- The pin calls of a trace, as `set_low` and `set_high` with what each returned (60_exceptions.md R140). -/
def pinCalls (cfg : Config) : List Event → List (PinLevel × CallResult)
  | [] => []
  | .cs drive r :: es => (drive.level cfg, r) :: pinCalls cfg es
  | .write _ _ :: es => pinCalls cfg es
  | .callBegin _ _ :: es => pinCalls cfg es
  | .callEnd _ :: es => pinCalls cfg es

/-- The byte lists given to `BusWrite` calls that have returned, in order. -/
def writesOf : List Event → List (List Byte)
  | [] => []
  | .write bytes _ :: es => bytes :: writesOf es
  | .cs _ _ :: es => writesOf es
  | .callBegin _ _ :: es => writesOf es
  | .callEnd _ :: es => writesOf es

/-- The bytes that reached the LCD in the calls that have returned: all of a write that returned `Ok`, and of a failed
one the first `draw k` at most, `k` the event's place in the trace (20_memory.md R47: "a draw in `0..m`"). -/
def deliveredBytes (draw : Nat → Nat) : Nat → List Event → List Byte
  | _, [] => []
  | k, .write bytes .ok :: es => bytes ++ deliveredBytes draw (k + 1) es
  | k, .write bytes .err :: es => bytes.take (draw k) ++ deliveredBytes draw (k + 1) es
  | k, .cs _ _ :: es => deliveredBytes draw (k + 1) es
  | k, .callBegin _ _ :: es => deliveredBytes draw (k + 1) es
  | k, .callEnd _ :: es => deliveredBytes draw (k + 1) es

/-- The bytes that reached the LCD, with the model's free draws (20_memory.md R41, R47; log 17). -/
def State.busBytes (s : State) : List Byte := deliveredBytes Config.failedWriteDraw 0 s.trace

end Sys2Proof.Machine
end

