-- ==== Sys2Proof/Safety.lean ====
section
/-! DEFINITION. What claims speak of: traces of complete requests (spec 41_framing.md R114), the invariant of CSF's state,
good states (60_exceptions.md R133) and the premise that the collaborators respond (70_reset_and_hazards.md R162). -/

namespace Sys2Proof.Machine

/-- The closed form of output byte `j` (40_encoder.md R89). -/
def closedByte (c : Bit) (n : Nat) (d : Lanes) (j : Nat) : Byte :=
  (if 1 ≤ j ∧ j ≤ n then lane d (j - 1) <<< (8 - j) else 0) |||
    (if j < n then c.setWidth 8 <<< (7 - j) ||| lane d j >>> (j + 1) else 0)

/-- A collaborator call's event with `Err` for what it returned. -/
def Event.failed : Event → Event
  | .cs drive _ => .cs drive .err
  | .write bytes _ => .write bytes .err
  | .callBegin len c => .callBegin len c
  | .callEnd r => .callEnd r

/-- One block's CS cycle when every call returns `Ok`; without chip-select, its write alone (41_framing.md R103, R111). -/
def blockEvents (hasCs : Bool) (c : Bit) (payload : List Byte) : List Event :=
  if hasCs then [.cs .assert .ok, .write (encodedBytes c payload) .ok, .cs .deassert .ok]
  else [.write (encodedBytes c payload) .ok]

/-- The call events of the first `k` blocks of a request, every call `Ok` (41_framing.md R114). -/
def blocksEvents (hasCs : Bool) (c : Bit) (req : List Byte) (k : Nat) : List Event :=
  (List.range k).flatMap fun b => blockEvents hasCs c (blockSlice req b)

/-- The collaborator calls a request makes when none fails. -/
def callEvents (hasCs : Bool) (c : Bit) (req : List Byte) : List Event :=
  blocksEvents hasCs c req (blockCount req.length)

/-- A finished request: its bytes, its control bit, and which of its calls failed, counted from 0, if one did. -/
structure Served where
  req : List Byte
  c : Bit
  failedCall : Option Nat
  deriving DecidableEq, Repr

/-- The failing call, where there is one, is a call of the request. -/
def Served.Valid (hasCs : Bool) (v : Served) : Prop :=
  ∀ k, v.failedCall = some k → k < (callEvents hasCs v.c v.req).length

/-- The result of a finished request. -/
def Served.result (v : Served) : Result :=
  match v.failedCall with
  | none => .ok
  | some _ => .busError

/-- The trace of a finished request: every call `Ok`, or the calls before the failing one, that call with `Err`, and
nothing more (41_framing.md R114). -/
def Served.events (hasCs : Bool) (v : Served) : List Event :=
  let calls := callEvents hasCs v.c v.req
  let made :=
    match v.failedCall with
    | none => calls
    | some k => calls.take k ++ ((calls.drop k).take 1).map Event.failed
  .callBegin v.req.length v.c :: made ++ [.callEnd v.result]

/-- The events of the request in progress. -/
def State.openEvents (s : State) : List Event :=
  let begun := .callBegin s.req.length s.c :: blocksEvents s.cfg.hasCs s.c s.req s.b
  match s.phase with
  | .idle => []
  | .assert => begun
  | .write => begun ++ if s.cfg.hasCs then [.cs .assert .ok] else []
  | .deassert => begun ++ [.cs .assert .ok, .write (encodedBytes s.c (blockSlice s.req s.b)) .ok]

/-- The result of the last finished request of a history; NONE before the first (10_state.md R28). -/
def lastResult (history : List Served) : Result :=
  match history.getLast? with
  | none => .none
  | some v => v.result

/-- The trace is the traces of finished requests, one after the other, and then the events of the request in progress,
and `result` is the last finished request's. -/
def State.Framed (s : State) : Prop :=
  ∃ history : List Served, (∀ v ∈ history, v.Valid s.cfg.hasCs) ∧
    s.trace = history.flatMap (Served.events s.cfg.hasCs) ++ s.openEvents ∧ s.result = lastResult history

/-- The invariant of CSF's state. -/
structure State.Inv (s : State) : Prop where
  /-- `nblk = ceil(len(req) / 8)` (10_state.md R24). -/
  blocks : s.nblk = blockCount s.req.length
  /-- `b <= nblk` (10_state.md R24, R27). -/
  index : s.b ≤ s.nblk
  /-- A request in progress has a block to serve (10_state.md R27). -/
  busy : s.phase ≠ .idle → s.b < s.nblk
  /-- Without chip-select CSF never enters ASSERT or DEASSERT (10_state.md R25). -/
  noPin : s.cfg.hasCs = false → s.phase = .idle ∨ s.phase = .write
  /-- Between the assert and the deassert of a block the line is known to be asserted (10_state.md R29). -/
  line : s.cfg.hasCs = true → s.phase = .write ∨ s.phase = .deassert → s.cs = .asserted
  /-- Without chip-select `cs` keeps its reset value (10_state.md R29, R35). -/
  lineKept : s.cfg.hasCs = false → s.cs = s.cfg.csInit
  /-- The latch holds no byte, or the 2 to 9 of an encoded block (20_memory.md R46). -/
  latchLength : s.blkM = 0 ∨ (2 ≤ s.blkM ∧ s.blkM ≤ 9)
  /-- The latch's bytes beyond `blk_m` are 0 (10_state.md R22, R31). -/
  latchPadding : ∀ j, s.blkM ≤ j → outByte s.blkQ j = 0
  /-- After the write of block `b` the latch holds its encoding (10_state.md R31). -/
  latched : s.phase = .deassert → validBytes s.blkQ s.blkM = encodedBytes s.c (blockSlice s.req s.b)

/-- No fault mark: "A state with a fault mark is never a good final state" (60_exceptions.md R133). -/
def State.Good (s : State) : Prop := s.fault = {}

/-- Nothing of the host's reaches the block while it is busy: no overlapping arrival is first in line. -/
def State.Quiet (s : State) : Prop := ∀ h ∈ s.host.head?, h.arrival = .whenReturned

/-- COLLAB_RESPONDS for `n` calls: each of the next `n` collaborator calls returns, with `Ok` or `Err`
(70_reset_and_hazards.md R162). -/
def State.CollabResponds (s : State) (n : Nat) : Prop := n ≤ s.answers.length

/-- How many collaborator calls a request of `len` bytes makes when none fails: three a block, one without chip-select
(41_framing.md R103, R111). -/
def callCount (hasCs : Bool) (len : Nat) : Nat := (if hasCs then 3 else 1) * blockCount len

/-- The next step takes a power-up reset. -/
def State.TakesReset (s : State) : Prop := ∃ rest, s.hostReady = some (.powerUp, rest)

/-- `step` repeated, stopping at a fault or a refusal. -/
abbrev runSteps (k : Nat) (s : State) : StepOutcome := Host.Core.run Sys2Proof.core k s

end Sys2Proof.Machine
end

