-- ==== Sys2Proof/Certificates/Slice0/Obligations.lean ====
section
/-! DEFINITION. The statements for the provers. -/

open Sys2Proof Sys2Proof.Machine

/-! ### Encodings -/

/-- Decode and encode agree on every operation of the table (30_encoding.md R61, R66, R67, R68, R69). -/
def Obligations.DecodeOfEncodeIsInstr : Prop :=
  ∀ (lvl : PinLevel) (i : Instr), i.WellFormed → decode lvl (encode lvl i) = .ok i

/-- Every form that names its format and that the decoder accepts is the encoding of what it reads; so no two forms
are read as one operation. -/
def Obligations.EncodeOfDecodeIsForm : Prop :=
  ∀ (lvl : PinLevel) (e : Encoded) (i : Instr), e.format ≠ none → decode lvl e = .ok i → encode lvl i = e

/-- Whatever the decoder reads is an operation of the table, bare words included. -/
def Obligations.DecodedIsWellFormed : Prop :=
  ∀ (lvl : PinLevel) (e : Encoded) (i : Instr), decode lvl e = .ok i → i.WellFormed

/-- Words written out from the spec's encodings decode to what they stand for: sanity. That a bare word is recognised by
its width is the model's choice (log 18). -/
def Obligations.SpecWordsDecode : Prop :=
  decodeTableWord 8 0b00000000 = some (.encodeEmpty 0 zeroLanes) ∧
  decodeTableWord 8 0b00000101 = some (.encode 0 5 zeroLanes) ∧
  decodeTableWord 8 0b00001000 = some (.encode 0 8 zeroLanes) ∧
  decodeTableWord 8 0b00001001 = some (.encodeIllegal 0 9 zeroLanes) ∧
  decodeTableWord 8 0b10001000 = some (.setContrast 8) ∧
  decodeTableWord 16 0b0_10001000 = some (.cmdWord 0x88) ∧
  decodeTableWord 16 0b1_00000001 = some (.dataWord 0x01)

/-- The opcode map, one level at a time (30_encoding.md R70). -/
def Obligations.OpcodeMapSelects : Prop :=
  (∀ (lvl : PinLevel) (c : Bit) (n : BitVec 4) (d : Lanes),
    decode lvl (.form (.encoderPort c n d)) =
      .ok (if n = 0 then .encodeEmpty c d else if n ≤ 8 then .encode c n d else .encodeIllegal c n d)) ∧
  (∀ (lvl : PinLevel) (bytes : List Byte) (isCommand : Bool) (byte : Byte),
    decode lvl (.form (.request (.send bytes isCommand))) = .ok (.send bytes isCommand) ∧
    decode lvl (.form (.request (.sendCommand byte))) = .ok (.sendCommand byte)) ∧
  (∀ (lvl : PinLevel) (p : Byte),
    decode lvl (.form (.wire9 (0#1 ++ p))) = .ok (.cmdWord p) ∧
    decode lvl (.form (.wire9 (1#1 ++ p))) = .ok (.dataWord p)) ∧
  (∀ lvl : PinLevel,
    decode lvl (.call (.pinSet lvl)) = .ok .csAssert ∧ decode lvl (.call .busWrite) = .ok .busWrite ∧
    decode lvl (.call (.pinSet lvl.other)) = .ok .csDeassert)

/-- The contrast layout: bits 7:5 are `100`, bits 4:0 the value masked to 5 bits (30_encoding.md R69); every other
payload byte is rejected by name (the model's choice, log 19). -/
def Obligations.ContrastIsTheOnlyListedPayload : Prop :=
  ∀ (lvl : PinLevel) (p : Byte),
    (∀ v : BitVec 8, p = 0x80 ||| (v &&& 0x1F) →
      decode lvl (.form (.payloadByte p)) = .ok (.setContrast (v.setWidth 5))) ∧
    ((∀ v : BitVec 8, p ≠ 0x80 ||| (v &&& 0x1F)) →
      decode lvl (.form (.payloadByte p)) = .error (.payloadNotListed p))

/-! ### ENC -/

/-- ENC's loop and its closed form are the same function (40_encoder.md R81, R89). -/
def Obligations.EncLoopIsClosedForm : Prop :=
  ∀ (c : Bit) (n : BitVec 4) (d : Lanes), n.toNat ≤ 8 →
    ∃ o, encodePorts { c := c, n := n, d := d } = some o ∧
      o.m.toNat = (if n.toNat = 0 then 0 else n.toNat + 1) ∧
      ∀ j, j ≤ 8 → outByte o.q j = closedByte c n.toNat d j

/-- ENCODE completes and places the three fields of every word (40_encoder.md R82, R83, R84); it writes ENC's input
ports, which the model keeps in State (log 1), and nothing else. -/
def Obligations.EncodePlacesFields : Prop :=
  ∀ (c : Bit) (n : BitVec 4) (d : Lanes) (s : State), 1 ≤ n.toNat → n.toNat ≤ 8 →
    ∃ t o, exec (.encode c n d) s = .next t ∧ t = { s with enc := { c := c, n := n, d := d } } ∧
      t.encOut = some o ∧ o.m.toNat = n.toNat + 1 ∧
      ∀ k, k < n.toNat →
        (outByte o.q k).extractLsb' (7 - k) 1 = c ∧
        (outByte o.q k).extractLsb' 0 (7 - k) = (lane d k).extractLsb' (k + 1) (7 - k) ∧
        (outByte o.q (k + 1)).extractLsb' (7 - k) (k + 1) = (lane d k).extractLsb' 0 (k + 1)

/-- ENCODE_EMPTY completes and gives no bytes (30_encoding.md R72); of the state it writes ENC's input ports (log 1). -/
def Obligations.EncodeEmptyGivesNoBytes : Prop :=
  ∀ (c : Bit) (d : Lanes) (s : State),
    ∃ t, exec (.encodeEmpty c d) s = .next t ∧ t = { s with enc := { c := c, n := 0, d := d } } ∧
      t.encOut = some { m := 0, q := Vector.replicate 9 0 }

/-- ENCODE_ILLEGAL raises the sticky mark, gives no output, and changes nothing else but ENC's inputs
(30_encoding.md R71, 60_exceptions.md R133). That the machine goes on with the inputs on the ports is the model's reading
(log 1, log 3). -/
def Obligations.EncodeIllegalRaisesMark : Prop :=
  ∀ (c : Bit) (n : BitVec 4) (d : Lanes) (s : State), 9 ≤ n.toNat →
    ∃ t, exec (.encodeIllegal c n d) s = .next t ∧
      t = { s with enc := { c := c, n := n, d := d }, fault := { s.fault with illegalLength := true } } ∧
      t.encOut = none

/-- ENC is total on 0..8, fails only above 8, and touches no state of CSF and no collaborator (40_encoder.md R88);
the ports it is presented on are in State by the model's choice (log 1), and that the machine goes on after the mark is
its reading (log 3). -/
def Obligations.EncTouchesNoCsfState : Prop :=
  ∀ (lvl : PinLevel) (c : Bit) (n : BitVec 4) (d : Lanes) (s : State) (i : Instr),
    decode lvl (.form (.encoderPort c n d)) = .ok i →
    ∃ t, exec i s = .next t ∧ t = { s with enc := { c := c, n := n, d := d }, fault := t.fault } ∧
      (n.toNat ≤ 8 → t.fault = s.fault ∧ t.encOut ≠ none) ∧
      (8 < n.toNat → t.fault = { s.fault with illegalLength := true } ∧ t.encOut = none)

/-- The output bytes start at 0, so the bytes from `m` on and the padding bits of a short block are 0
(40_encoder.md R86, 30_encoding.md R64). -/
def Obligations.PaddingIsZero : Prop :=
  ∀ (c : Bit) (n : BitVec 4) (d : Lanes) (o : EncOut), encodePorts { c := c, n := n, d := d } = some o →
    (∀ j, o.m.toNat ≤ j → j ≤ 8 → outByte o.q j = 0) ∧
    (1 ≤ n.toNat → n.toNat < 8 → (outByte o.q n.toNat).extractLsb' 0 (8 - n.toNat) = 0)

/-- The lanes from `n` on do not affect any output (40_encoder.md R92). -/
def Obligations.UnusedLanesDoNotMatter : Prop :=
  ∀ (c : Bit) (n : BitVec 4) (d e : Lanes), (∀ k, k < n.toNat → lane d k = lane e k) →
    encodePorts { c := c, n := n, d := d } = encodePorts { c := c, n := n, d := e }

/-- The inputs are recovered from the outputs, every control-bit position holds `c`, and ENCODE is injective for each
length (40_encoder.md R93). -/
def Obligations.EncInverse : Prop :=
  (∀ (c : Bit) (n : BitVec 4) (d : Lanes) (o : EncOut), 1 ≤ n.toNat →
    encodePorts { c := c, n := n, d := d } = some o →
    unpackControl o.q = c ∧
    (∀ k, k < n.toNat → unpackPayload o.q k = lane d k ∧ (outByte o.q k).extractLsb' (7 - k) 1 = c) ∧
    (n.toNat < 8 → (outByte o.q n.toNat).extractLsb' 0 (8 - n.toNat) = 0)) ∧
  ∀ (c c' : Bit) (n : BitVec 4) (d e : Lanes), 1 ≤ n.toNat → n.toNat ≤ 8 →
    encodePorts { c := c, n := n, d := d } = encodePorts { c := c', n := n, d := e } →
    c = c' ∧ ∀ k, k < n.toNat → lane d k = lane e k

/-- One word more changes only the last two bytes (40_encoder.md R91). -/
def Obligations.EncOneMoreWord : Prop :=
  ∀ (c : Bit) (n : Nat) (d : Lanes) (o o' : EncOut), n < 8 →
    encodePorts { c := c, n := BitVec.ofNat 4 n, d := d } = some o →
    encodePorts { c := c, n := BitVec.ofNat 4 (n + 1), d := d } = some o' →
    (∀ j, j < n → outByte o'.q j = outByte o.q j) ∧
    outByte o'.q n = outByte o.q n ||| c.setWidth 8 <<< (7 - n) ||| lane d n >>> (n + 1) ∧
    outByte o'.q (n + 1) = lane d n <<< (7 - n)

/-- ENCODE with `c = 1` is ENCODE with `c = 0` and the control-bit mask (40_encoder.md R97). -/
def Obligations.ControlBitMask : Prop :=
  ∀ (n : BitVec 4) (d : Lanes) (o₀ o₁ : EncOut),
    encodePorts { c := 0, n := n, d := d } = some o₀ → encodePorts { c := 1, n := n, d := d } = some o₁ →
    ∀ j, j ≤ 8 → outByte o₁.q j = outByte o₀.q j ||| (if j < n.toNat then 1#8 <<< (7 - j) else 0)

/-- The encoded bytes, bit by bit in the order sent, are the 9-bit words end to end and then the padding zeros
(20_memory.md R44, 40_encoder.md R90). -/
def Obligations.EncodedBlockIsWordsEndToEnd : Prop :=
  ∀ (c : Bit) (n : BitVec 4) (d : Lanes) (o : EncOut), encodePorts { c := c, n := n, d := d } = some o →
    streamBits (validBytes o.q o.m.toNat) =
      wordsBits c (d.toList.take n.toNat) ++ List.replicate (8 * o.m.toNat - 9 * n.toNat) 0

/-! ### Requests -/

/-- SEND of at least one byte, in IDLE: accepted (41_framing.md R100). -/
def Obligations.SendStartsRequest : Prop :=
  ∀ (bytes : List Byte) (isCommand : Bool) (s : State), s.phase = .idle → bytes ≠ [] →
    exec (.send bytes isCommand) s = .next { s with
      req := bytes
      c := if isCommand then 0 else 1
      nblk := (bytes.length + 7) / 8
      b := 0
      phase := if s.cfg.hasCs then .assert else .write
      trace := s.trace ++ [.callBegin bytes.length (if isCommand then 0 else 1)] }

/-- SEND of no bytes, in IDLE: no call, OK at once, still IDLE (41_framing.md R102). -/
def Obligations.EmptySendEndsAtOnce : Prop :=
  ∀ (isCommand : Bool) (s : State), s.phase = .idle →
    exec (.send [] isCommand) s = .next { s with
      req := []
      c := if isCommand then 0 else 1
      nblk := 0
      b := 0
      result := .ok
      trace := s.trace ++ [.callBegin 0 (if isCommand then 0 else 1), .callEnd .ok] }

/-- A request while CSF is busy: the sticky mark, no event, the request in progress unchanged (41_framing.md R112). -/
def Obligations.BusyRequestIsRefused : Prop :=
  ∀ (i : Instr) (s : State), s.phase ≠ .idle →
    ((∃ bytes isCommand, i = .send bytes isCommand) ∨ ∃ byte, i = .sendCommand byte) →
    exec i s = .next { s with fault := { s.fault with busyRequest := true } }

/-- SEND_COMMAND is a SEND of one command byte, whose block is `[byte >> 1, (byte & 1) << 7]` (41_framing.md R113). -/
def Obligations.SendCommandSendsOneByte : Prop :=
  ∀ (byte : Byte) (s : State),
    exec (.sendCommand byte) s = exec (.send [byte] true) s ∧
    encodedBytes 0 [byte] = [byte >>> 1, (byte &&& 1) <<< 7] ∧
    (s.phase = .idle → exec (.sendCommand byte) s = .next { s with
      req := [byte], c := 0, nblk := 1, b := 0, phase := if s.cfg.hasCs then .assert else .write
      trace := s.trace ++ [.callBegin 1 0] })

/-- CMD_WORD, DATA_WORD and SET_CONTRAST in IDLE: each starts the one-byte request that puts it on the wire. THE MODEL'S
CHOICE (log 10, log 11): the spec names the words and the payload, not an operation for them. -/
def Obligations.WordsStartOneByteRequests : Prop :=
  ∀ (i : Instr) (s : State) (p : Byte) (bit : Bit), s.phase = .idle →
    ((i = .cmdWord p ∧ bit = 0) ∨ (i = .dataWord p ∧ bit = 1) ∨
      ∃ v : BitVec 5, i = .setContrast v ∧ p = 0x80 ||| v.setWidth 8 ∧ bit = 0) →
    exec i s = .next { s with
      req := [p], c := bit, nblk := 1, b := 0, phase := if s.cfg.hasCs then .assert else .write
      trace := s.trace ++ [.callBegin 1 bit] }

/-- CMD_WORD, DATA_WORD and SET_CONTRAST while CSF is busy: refused like the request each stands for (the model's
choice, log 10, log 11). -/
def Obligations.WordsWhileBusyAreRefused : Prop :=
  ∀ (i : Instr) (s : State), s.phase ≠ .idle →
    ((∃ p, i = .cmdWord p) ∨ (∃ p, i = .dataWord p) ∨ ∃ v, i = .setContrast v) →
    exec i s = .next { s with fault := { s.fault with busyRequest := true } }

/-- The block that a one-word request writes carries exactly that word of 30_encoding.md R61 and 7 padding bits (the
model's choice of meaning, log 10). -/
def Obligations.OneWordBlockCarriesTheWord : Prop :=
  ∀ (c : Bit) (p : Byte) (k : Nat), k < 16 →
    (streamBits (encodedBytes c [p]))[k]? =
      some (if k < 9 then (word9 c p).extractLsb' (8 - k) 1 else 0)

/-- Chunking: every block but the last has 8 bytes, the last the rest, and they cover the request in order
(41_framing.md R101). -/
def Obligations.BlocksCoverRequest : Prop :=
  ∀ (req : List Byte),
    (∀ b, b < blockCount req.length →
      (blockSlice req b).length = min 8 (req.length - 8 * b) ∧ 1 ≤ (blockSlice req b).length ∧
      (b + 1 < blockCount req.length → (blockSlice req b).length = 8) ∧
      (b + 1 = blockCount req.length → (blockSlice req b).length = req.length - 8 * (blockCount req.length - 1)) ∧
      ∀ k, k < (blockSlice req b).length → (blockSlice req b)[k]? = req[8 * b + k]?) ∧
    (List.range (blockCount req.length)).flatMap (blockSlice req) = req

/-! ### Bus events -/

/-- CS_ASSERT in its phase, for each of the three outcomes of the pin call (41_framing.md R105, R109, R110). That the
outcome is read from a list, and that a call without an answer is a step which keeps the state, is the model's choice
(log 6, log 24). -/
def Obligations.CsAssertStep : Prop :=
  ∀ (s : State), s.phase = .assert → s.cfg.hasCs = true →
    (∀ rest, s.answers = .ok :: rest → exec .csAssert s = .next { s with
      answers := rest, cs := .asserted, phase := .write, trace := s.trace ++ [.cs .assert .ok] }) ∧
    (∀ rest, s.answers = .err :: rest → exec .csAssert s = .next { s with
      answers := rest, cs := .unknown, phase := .idle, result := .busError
      trace := s.trace ++ [.cs .assert .err, .callEnd .busError] }) ∧
    (s.answers = [] → exec .csAssert s = .next s)

/-- BUS_WRITE in its phase, for each of the three outcomes of the bus write. Block `b` is encoded with the request's
control bit and latched, and its bytes are written in one call; `cs`, the request, the marks and the host are untouched
(41_framing.md R106, R109, R110, R111). That the outcome is read from a list, and that a call without an answer is a step
which keeps the phase, is the model's choice (log 6, log 24). -/
def Obligations.BusWriteStep : Prop :=
  ∀ (s : State), s.phase = .write → 8 * s.b < s.req.length →
    ∃ t, exec .busWrite s = .next t ∧
      (let bytes := encodedBytes s.c (blockSlice s.req s.b)
       validBytes t.blkQ t.blkM = bytes ∧ t.blkM = (blockSlice s.req s.b).length + 1 ∧
       t.cfg = s.cfg ∧ t.req = s.req ∧ t.c = s.c ∧ t.nblk = s.nblk ∧ t.cs = s.cs ∧ t.fault = s.fault ∧
       t.host = s.host ∧ t.answers = s.answers.tail ∧
       (s.answers = [] →
         t.phase = .write ∧ t.b = s.b ∧ t.result = s.result ∧ t.trace = s.trace) ∧
       (s.answers.head? = some .err →
         t.phase = .idle ∧ t.b = s.b ∧ t.result = .busError ∧
         t.trace = s.trace ++ [.write bytes .err, .callEnd .busError]) ∧
       (s.answers.head? = some .ok → s.cfg.hasCs = true →
         t.phase = .deassert ∧ t.b = s.b ∧ t.result = s.result ∧ t.trace = s.trace ++ [.write bytes .ok]) ∧
       (s.answers.head? = some .ok → s.cfg.hasCs = false → s.b + 1 < s.nblk →
         t.phase = .write ∧ t.b = s.b + 1 ∧ t.result = s.result ∧ t.trace = s.trace ++ [.write bytes .ok]) ∧
       (s.answers.head? = some .ok → s.cfg.hasCs = false → s.nblk ≤ s.b + 1 →
         t.phase = .idle ∧ t.b = s.b + 1 ∧ t.result = .ok ∧
         t.trace = s.trace ++ [.write bytes .ok, .callEnd .ok]))

/-- BUS_WRITE drives ENC's ports with block `b` and latches what ENC gives for them (41_framing.md R106, 10_state.md
R31). That State keeps the ports' inputs after the step (log 1), and that the step is taken where the call is not answered
(log 6, log 24), is the model's choice. -/
def Obligations.BusWriteLatchesEncOutput : Prop :=
  ∀ (s : State), s.phase = .write → 8 * s.b < s.req.length →
    ∃ t o, exec .busWrite s = .next t ∧ t.encOut = some o ∧ t.blkQ = o.q ∧ t.blkM = o.m.toNat ∧
      t.enc.c = s.c ∧ t.enc.n.toNat = min 8 (s.req.length - 8 * s.b) ∧
      ∀ k, k < t.enc.n.toNat → s.req[8 * s.b + k]? = some (lane t.enc.d k)

/-- CS_DEASSERT in its phase, for each of the three outcomes, with the advance (41_framing.md R108, R109, R110). That
the outcome is read from a list, and that a call without an answer is a step which keeps the state, is the model's choice
(log 6, log 24). -/
def Obligations.CsDeassertStep : Prop :=
  ∀ (s : State), s.phase = .deassert → s.cfg.hasCs = true →
    (∀ rest, s.answers = .ok :: rest → s.b + 1 < s.nblk → exec .csDeassert s = .next { s with
      answers := rest, cs := .deasserted, phase := .assert, b := s.b + 1
      trace := s.trace ++ [.cs .deassert .ok] }) ∧
    (∀ rest, s.answers = .ok :: rest → s.nblk ≤ s.b + 1 → exec .csDeassert s = .next { s with
      answers := rest, cs := .deasserted, phase := .idle, b := s.b + 1, result := .ok
      trace := s.trace ++ [.cs .deassert .ok, .callEnd .ok] }) ∧
    (∀ rest, s.answers = .err :: rest → exec .csDeassert s = .next { s with
      answers := rest, cs := .unknown, phase := .idle, result := .busError
      trace := s.trace ++ [.cs .deassert .err, .callEnd .busError] }) ∧
    (s.answers = [] → exec .csDeassert s = .next s)

/-- A bus event out of its phase is refused by name, and a pin event where there is no pin faults (the model's choice,
log 8, log 9: CSF takes each event only in its own phase and only with a pin, 41_framing.md R105, R106, R108). -/
def Obligations.BusEventsOutOfPhaseStop : Prop :=
  ∀ (s : State),
    (s.phase ≠ .assert → exec .csAssert s = .refused (.outOfPhase s.phase)) ∧
    (s.phase ≠ .write → exec .busWrite s = .refused (.outOfPhase s.phase)) ∧
    (s.phase ≠ .deassert → exec .csDeassert s = .refused (.outOfPhase s.phase)) ∧
    (s.cfg.hasCs = false → s.phase = .assert → exec .csAssert s = .fault .noChipSelectPin) ∧
    (s.cfg.hasCs = false → s.phase = .deassert → exec .csDeassert s = .fault .noChipSelectPin)

/-- The frame of the three bus events: the configuration, the request, its control bit and block count, the marks and
the host's list are unchanged; the pin events leave ENC's ports, the latch and, when asserting, `b` alone; at most one
answer is taken; and the trace grows by what the events of one call and the end of a request give. The answers and
the step of a call without one are the model's choice (log 6, log 24). -/
def Obligations.BusEventFrame : Prop :=
  ∀ (i : Instr) (s t : State), (i = .csAssert ∨ i = .busWrite ∨ i = .csDeassert) → exec i s = .next t →
    t.cfg = s.cfg ∧ t.req = s.req ∧ t.c = s.c ∧ t.nblk = s.nblk ∧ t.fault = s.fault ∧ t.host = s.host ∧
    t.answers = s.answers.tail ∧
    (i ≠ .busWrite → t.enc = s.enc ∧ t.blkQ = s.blkQ ∧ t.blkM = s.blkM) ∧
    (i = .busWrite → t.cs = s.cs) ∧ (i = .csAssert → t.b = s.b) ∧
    ∃ es : List Event, t.trace = s.trace ++ es ∧ es.length ≤ 2 ∧ (s.answers = [] ↔ es = [])

/-! ### The machine -/

/-- A step runs the decoded operation: what the host presents and the block is free to take, in the state left when it
is taken off the host's list (the list is the model's, log 12). -/
def Obligations.StepRunsPresentedOperation : Prop :=
  ∀ (s : State) (f : Form) (a : Arrival) (rest : List HostInput) (i : Instr),
    s.host = { op := .present f, arrival := a } :: rest → (s.phase = .idle ∨ a = .atOnce) →
    decode s.cfg.csAssertLevel (.form f) = .ok i →
    step s = exec i { s with host := rest }

/-- A step runs CSF's own next event when no host operation reaches the block (10_state.md R25; the host's list is the
model's, log 12). -/
def Obligations.StepRunsNextBusEvent : Prop :=
  ∀ (s : State), s.Quiet →
    (s.phase = .assert → step s = exec .csAssert s) ∧ (s.phase = .write → step s = exec .busWrite s) ∧
    (s.phase = .deassert → step s = exec .csDeassert s)

/-- With nothing presented, an IDLE block waits; a host delay is the host's own and leaves the block as it is
(70_reset_and_hazards.md R150, R152; log 12, log 15). -/
def Obligations.StepWaitsOrDelays : Prop :=
  ∀ (s : State), s.phase = .idle →
    (s.host = [] → step s = .next s) ∧
    (∀ us a rest, s.host = { op := .delay us, arrival := a } :: rest → step s = .next { s with host := rest })

/-- A power-up reset: every CSF element at its reset value where no request is in progress, refused where one is
(70_reset_and_hazards.md R150; the model's reading of a reset as an input, log 14). -/
def Obligations.PowerUpResetsCsf : Prop :=
  ∀ (s : State) (rest : List HostInput),
    (∀ a, s.host = { op := .powerUp, arrival := a } :: rest → s.phase = .idle →
      step s = .next { State.resetWith s.cfg with enc := s.enc, host := rest, answers := s.answers }) ∧
    (s.host = { op := .powerUp, arrival := .atOnce } :: rest → s.phase ≠ .idle →
      step s = .refused .resetInProgress)

/-- The reset values of CSF (10_state.md R35). -/
def Obligations.ResetValues : Prop :=
  ∀ cfg : Config,
    let s := State.resetWith cfg
    s.phase = .idle ∧ s.req = [] ∧ s.c = 0 ∧ s.nblk = 0 ∧ s.b = 0 ∧ (∀ j, outByte s.blkQ j = 0) ∧ s.blkM = 0 ∧
    s.cs = cfg.csInit ∧ s.result = .none ∧ s.fault = {} ∧ s.trace = []

/-- The invariant and the framing of the trace hold at reset, in every configuration (10_state.md R35). -/
def Obligations.ResetMeetsInvariant : Prop :=
  ∀ cfg : Config, (State.resetWith cfg).Inv ∧ (State.resetWith cfg).Framed

/-- Every step keeps the invariant of CSF's state. -/
def Obligations.StepKeepsInvariant : Prop :=
  ∀ s t : State, s.Inv → step s = .next t → t.Inv

/-- Every step keeps the trace framed: whole requests, each with its CS cycles, block after block, ended by its first
failure, and the request in progress after them (41_framing.md R103, R104, R109, R114, 20_memory.md R51). -/
def Obligations.StepKeepsTraceFramed : Prop :=
  ∀ s t : State, s.Inv → s.Framed → step s = .next t → t.Framed

/-- In a state that meets the invariant no step faults, and a step is refused only where the host presents a form that
is no operation, or a reset in mid-request (the model's refusals, log 14, log 18, log 19). -/
def Obligations.StepStopsOnlyOnBadInput : Prop :=
  ∀ s : State, s.Inv →
    (∀ r, step s ≠ .fault r) ∧
    ∀ r, step s = .refused r →
      (r = .resetInProgress ∧ s.phase ≠ .idle ∧ s.TakesReset) ∨
      ∃ f rest why, s.hostReady = some (.present f, rest) ∧ decodeForm f = .error why ∧ r = .undecodable why

/-- The configuration never changes (10_state.md R30; that State carries it is the model's choice, log 5). -/
def Obligations.ConfigurationIsFixed : Prop :=
  (∀ (i : Instr) (s t : State), exec i s = .next t → t.cfg = s.cfg) ∧
  ∀ s t : State, step s = .next t → t.cfg = s.cfg

/-- A fault mark is never cleared by a step; only reset clears it (10_state.md R33; the reset is a step's
input by the model's choice, log 14). -/
def Obligations.FaultMarksAreSticky : Prop :=
  (∀ (s t : State) (mark : FaultMark), step s = .next t → s.fault.has mark = true → t.fault.has mark = false →
    s.TakesReset) ∧
  ∀ (s t : State), s.TakesReset → step s = .next t → t.fault = {}

/-- Marks are raised by nothing but the two inputs that must not happen: ENC with `n > 8`, and a request while CSF is not
IDLE (60_exceptions.md R133). The words and the contrast payload are requests here (log 10, log 11). -/
def Obligations.MarksOnlyFromForbiddenInputs : Prop :=
  ∀ (s t : State), step s = .next t → t.fault ≠ s.fault → ¬ s.TakesReset →
    ∃ f rest i, s.hostReady = some (.present f, rest) ∧ decodeForm f = .ok i ∧
      ((∃ c n d, i = .encodeIllegal c n d ∧ t.fault = { s.fault with illegalLength := true }) ∨
       (s.phase ≠ .idle ∧ i.format ≠ .encoderPort ∧ t.fault = { s.fault with busyRequest := true }))

/-- The request being served does not change until it ends (10_state.md R26). A reset in mid-request is refused
(log 14). -/
def Obligations.RequestIsStable : Prop :=
  ∀ s t : State, s.phase ≠ .idle → step s = .next t → t.req = s.req ∧ t.c = s.c ∧ t.nblk = s.nblk

/-- Only the end of a request writes `result`, and it is the outcome in the `CALL_END` event (10_state.md R28,
41_framing.md R117); a reset is taken apart (log 14). -/
def Obligations.ResultWrittenOnlyAtEnd : Prop :=
  ∀ s t : State, step s = .next t → t.result ≠ s.result → ¬ s.TakesReset →
    t.phase = .idle ∧ t.trace.getLast? = some (.callEnd t.result)

/-- BusError is raised by a collaborator call of CSF that returns `Err`, in one of the three phases, and by nothing
else; `cs` is what the failing step left (60_exceptions.md R131). What the call returns is read from the model's list
(log 6). -/
def Obligations.BusErrorOnlyFromFailingCalls : Prop :=
  ∀ (s t : State) (es : List Event), step s = .next t → t.trace = s.trace ++ es → .callEnd .busError ∈ es →
    t.result = .busError ∧ t.phase = .idle ∧ s.answers.head? = some .err ∧
    ((s.phase = .assert ∧ t.cs = .unknown ∧ es = [.cs .assert .err, .callEnd .busError]) ∨
     (s.phase = .write ∧ t.cs = s.cs ∧ ∃ bytes, es = [.write bytes .err, .callEnd .busError]) ∨
     (s.phase = .deassert ∧ t.cs = .unknown ∧ es = [.cs .deassert .err, .callEnd .busError]))

/-- The trace is a history: a step only appends to it, and only a reset empties it (10_state.md R34; log 14). -/
def Obligations.TraceOnlyGrows : Prop :=
  ∀ s t : State, step s = .next t → ¬ s.TakesReset → s.trace <+: t.trace

/-- `cs` is written only by the pin events: ASSERTED, DEASSERTED or, after a failed call, UNKNOWN (10_state.md R29). -/
def Obligations.LineWrittenOnlyByPinEvents : Prop :=
  ∀ (i : Instr) (s t : State), exec i s = .next t → t.cs ≠ s.cs →
    s.cfg.hasCs = true ∧
    ((i = .csAssert ∧ (t.cs = .asserted ∨ (t.cs = .unknown ∧ t.result = .busError))) ∨
     (i = .csDeassert ∧ (t.cs = .deasserted ∨ (t.cs = .unknown ∧ t.result = .busError))))

/-- Without chip-select no step makes a pin call and `cs` is never written (41_framing.md R111; a reset is taken apart,
log 14). -/
def Obligations.NoPinCallWithoutChipSelect : Prop :=
  ∀ (s t : State), s.cfg.hasCs = false → ¬ s.TakesReset → step s = .next t →
    t.cs = s.cs ∧ pinCalls t.cfg t.trace = pinCalls s.cfg s.trace

/-- Every ENCODE that CSF performs has 1 to 8 words (41_framing.md R118). -/
def Obligations.CsfNeverEncodesIllegalLength : Prop :=
  ∀ (s t : State), s.Inv → s.phase = .write → exec .busWrite s = .next t →
    1 ≤ t.enc.n.toNat ∧ t.enc.n.toNat ≤ 8 ∧ t.fault = s.fault

/-! ### Whole requests -/

/-- Big step, every call `Ok`: a SEND in IDLE, alone, appends the trace of R114 and ends with OK after one step for each
call, with the line deasserted if there was a block and a pin (41_framing.md R114). What each call returns is read from the
model's list (log 6). -/
def Obligations.SendRunsToOk : Prop :=
  ∀ (bytes : List Byte) (isCommand : Bool) (s : State) (rest : List CallResult),
    s.phase = .idle → s.host = [] →
    s.answers = List.replicate (callCount s.cfg.hasCs bytes.length) .ok ++ rest →
    ∃ t u, exec (.send bytes isCommand) s = .next t ∧
      runSteps (callCount s.cfg.hasCs bytes.length) t = .next u ∧
      u.trace = s.trace ++
        Served.events s.cfg.hasCs { req := bytes, c := if isCommand then 0 else 1, failedCall := none } ∧
      u.phase = .idle ∧ u.result = .ok ∧ u.answers = rest ∧ u.fault = s.fault ∧
      u.cs = if s.cfg.hasCs ∧ bytes ≠ [] then .deasserted else s.cs

/-- Big step, the call counted `k` from 0 the first to fail: the calls before it `Ok`, that call with `Err`, then
`CALL_END(BUS_ERROR)` and no call after it; `cs` is UNKNOWN after a failed pin call and ASSERTED (without a pin:
unchanged) after a failed write (41_framing.md R109, R114; log 6). -/
def Obligations.SendStopsAtFirstFailure : Prop :=
  ∀ (bytes : List Byte) (isCommand : Bool) (s : State) (k : Nat) (rest : List CallResult),
    s.phase = .idle → s.host = [] → k < callCount s.cfg.hasCs bytes.length →
    s.answers = List.replicate k .ok ++ .err :: rest →
    ∃ t u, exec (.send bytes isCommand) s = .next t ∧ runSteps (k + 1) t = .next u ∧
      u.trace = s.trace ++
        Served.events s.cfg.hasCs { req := bytes, c := if isCommand then 0 else 1, failedCall := some k } ∧
      u.phase = .idle ∧ u.result = .busError ∧ u.answers = rest ∧ u.fault = s.fault ∧
      u.cs = if s.cfg.hasCs then (if k % 3 = 1 then .asserted else .unknown) else s.cs

/-- The counts of a fully successful SEND of `L` bytes: `nblk` CS cycles and writes, `L + nblk` bytes, `8(L + nblk)`
bits (41_framing.md R115). -/
def Obligations.SuccessfulSendCounts : Prop :=
  ∀ (hasCs : Bool) (c : Bit) (req : List Byte) (cfg : Config), cfg.hasCs = hasCs →
    let es := callEvents hasCs c req
    (writesOf es).length = (req.length + 7) / 8 ∧
    (writesOf es).flatten.length = req.length + (req.length + 7) / 8 ∧
    (streamBits (writesOf es).flatten).length = 8 * (req.length + (req.length + 7) / 8) ∧
    (pinCalls cfg es).length = if hasCs then 2 * ((req.length + 7) / 8) else 0

/-- What a whole SEND puts on the wire: each block's words in order and its padding, so every payload byte in order as
one 9-bit word of the request's type (41_framing.md R119). -/
def Obligations.WireCarriesEveryPayloadByte : Prop :=
  ∀ (hasCs : Bool) (c : Bit) (req : List Byte),
    (writesOf (callEvents hasCs c req)).map streamBits =
      (List.range ((req.length + 7) / 8)).map fun b =>
        wordsBits c ((req.drop (8 * b)).take 8) ++ List.replicate (8 - ((req.drop (8 * b)).take 8).length) 0

/-- A call that never returns: CSF stays in its phase for ever and appends no event (41_framing.md R110). That the model
runs the same call again at each step is its choice, and so is the list of answers (log 6, log 24). -/
def Obligations.StalledCallStaysForEver : Prop :=
  ∀ (s : State), s.Inv → s.phase ≠ .idle → s.Quiet → s.answers = [] →
    ∀ k, ∃ t, runSteps k s = .next t ∧ t.phase = s.phase ∧ t.b = s.b ∧ t.trace = s.trace ∧ t.result = s.result ∧
      t.cs = s.cs ∧ t.answers = []

/-- A request ends if the collaborators respond: from any state of a request in progress, undisturbed, CSF is IDLE with
a result after at most as many steps as the request makes calls (70_reset_and_hazards.md R162; COLLAB_RESPONDS is the
premise `CollabResponds`, over the model's list of answers, log 6). -/
def Obligations.RequestEndsIfCollaboratorsRespond : Prop :=
  ∀ (s : State), s.Inv → s.phase ≠ .idle → s.host = [] →
    s.CollabResponds (callCount s.cfg.hasCs s.req.length) →
    ∃ k t, k ≤ callCount s.cfg.hasCs s.req.length ∧ runSteps k s = .next t ∧ t.phase = .idle ∧
      t.result ≠ .none ∧ t.trace.getLast? = some (.callEnd t.result)

/-- A write that returned `Ok` delivered all its bytes; one that returned `Err` some first part of them, and every first
part is allowed (20_memory.md R47; the draw is the model's free value, log 17). -/
def Obligations.FailedWriteDeliversSomeFirstPart : Prop :=
  ∀ (bytes : List Byte) (k : Nat),
    (∀ draw, deliveredBytes draw k [.write bytes .ok] = bytes) ∧
    (∀ draw, deliveredBytes draw k [.write bytes .err] <+: bytes) ∧
    ∀ part, part <+: bytes → ∃ draw, deliveredBytes draw k [.write bytes .err] = part
end

