-- ==== Sys2Proof/Laws/State.lean ====
section
/-! SUPPORT. What each update of the state gives in each field, so that no proof unfolds a record update. -/

namespace Sys2Proof.Machine

variable (s : State)

@[simp] theorem State.log_cfg (e : Event) : (State.log e s).cfg = s.cfg := rfl
@[simp] theorem State.log_enc (e : Event) : (State.log e s).enc = s.enc := rfl
@[simp] theorem State.log_phase (e : Event) : (State.log e s).phase = s.phase := rfl
@[simp] theorem State.log_req (e : Event) : (State.log e s).req = s.req := rfl
@[simp] theorem State.log_c (e : Event) : (State.log e s).c = s.c := rfl
@[simp] theorem State.log_nblk (e : Event) : (State.log e s).nblk = s.nblk := rfl
@[simp] theorem State.log_b (e : Event) : (State.log e s).b = s.b := rfl
@[simp] theorem State.log_blkQ (e : Event) : (State.log e s).blkQ = s.blkQ := rfl
@[simp] theorem State.log_blkM (e : Event) : (State.log e s).blkM = s.blkM := rfl
@[simp] theorem State.log_cs (e : Event) : (State.log e s).cs = s.cs := rfl
@[simp] theorem State.log_result (e : Event) : (State.log e s).result = s.result := rfl
@[simp] theorem State.log_fault (e : Event) : (State.log e s).fault = s.fault := rfl
@[simp] theorem State.log_trace (e : Event) : (State.log e s).trace = s.trace ++ [e] := rfl
@[simp] theorem State.log_host (e : Event) : (State.log e s).host = s.host := rfl
@[simp] theorem State.log_answers (e : Event) : (State.log e s).answers = s.answers := rfl

@[simp] theorem State.raise_cfg (mark : FaultMark) : (State.raise mark s).cfg = s.cfg := rfl
@[simp] theorem State.raise_enc (mark : FaultMark) : (State.raise mark s).enc = s.enc := rfl
@[simp] theorem State.raise_phase (mark : FaultMark) : (State.raise mark s).phase = s.phase := rfl
@[simp] theorem State.raise_req (mark : FaultMark) : (State.raise mark s).req = s.req := rfl
@[simp] theorem State.raise_c (mark : FaultMark) : (State.raise mark s).c = s.c := rfl
@[simp] theorem State.raise_nblk (mark : FaultMark) : (State.raise mark s).nblk = s.nblk := rfl
@[simp] theorem State.raise_b (mark : FaultMark) : (State.raise mark s).b = s.b := rfl
@[simp] theorem State.raise_blkQ (mark : FaultMark) : (State.raise mark s).blkQ = s.blkQ := rfl
@[simp] theorem State.raise_blkM (mark : FaultMark) : (State.raise mark s).blkM = s.blkM := rfl
@[simp] theorem State.raise_cs (mark : FaultMark) : (State.raise mark s).cs = s.cs := rfl
@[simp] theorem State.raise_result (mark : FaultMark) : (State.raise mark s).result = s.result := rfl
@[simp] theorem State.raise_fault (mark : FaultMark) : (State.raise mark s).fault = s.fault.add mark := rfl
@[simp] theorem State.raise_trace (mark : FaultMark) : (State.raise mark s).trace = s.trace := rfl
@[simp] theorem State.raise_host (mark : FaultMark) : (State.raise mark s).host = s.host := rfl
@[simp] theorem State.raise_answers (mark : FaultMark) : (State.raise mark s).answers = s.answers := rfl

@[simp] theorem endRequest_cfg (r : Result) : (endRequest r s).cfg = s.cfg := rfl
@[simp] theorem endRequest_enc (r : Result) : (endRequest r s).enc = s.enc := rfl
@[simp] theorem endRequest_phase (r : Result) : (endRequest r s).phase = .idle := rfl
@[simp] theorem endRequest_req (r : Result) : (endRequest r s).req = s.req := rfl
@[simp] theorem endRequest_c (r : Result) : (endRequest r s).c = s.c := rfl
@[simp] theorem endRequest_nblk (r : Result) : (endRequest r s).nblk = s.nblk := rfl
@[simp] theorem endRequest_b (r : Result) : (endRequest r s).b = s.b := rfl
@[simp] theorem endRequest_blkQ (r : Result) : (endRequest r s).blkQ = s.blkQ := rfl
@[simp] theorem endRequest_blkM (r : Result) : (endRequest r s).blkM = s.blkM := rfl
@[simp] theorem endRequest_cs (r : Result) : (endRequest r s).cs = s.cs := rfl
@[simp] theorem endRequest_result (r : Result) : (endRequest r s).result = r := rfl
@[simp] theorem endRequest_fault (r : Result) : (endRequest r s).fault = s.fault := rfl
@[simp] theorem endRequest_trace (r : Result) : (endRequest r s).trace = s.trace ++ [.callEnd r] := rfl
@[simp] theorem endRequest_host (r : Result) : (endRequest r s).host = s.host := rfl
@[simp] theorem endRequest_answers (r : Result) : (endRequest r s).answers = s.answers := rfl

@[simp] theorem abort_cfg : (abort s).cfg = s.cfg := rfl
@[simp] theorem abort_enc : (abort s).enc = s.enc := rfl
@[simp] theorem abort_phase : (abort s).phase = .idle := rfl
@[simp] theorem abort_req : (abort s).req = s.req := rfl
@[simp] theorem abort_c : (abort s).c = s.c := rfl
@[simp] theorem abort_nblk : (abort s).nblk = s.nblk := rfl
@[simp] theorem abort_b : (abort s).b = s.b := rfl
@[simp] theorem abort_blkQ : (abort s).blkQ = s.blkQ := rfl
@[simp] theorem abort_blkM : (abort s).blkM = s.blkM := rfl
@[simp] theorem abort_cs : (abort s).cs = s.cs := rfl
@[simp] theorem abort_result : (abort s).result = .busError := rfl
@[simp] theorem abort_fault : (abort s).fault = s.fault := rfl
@[simp] theorem abort_trace : (abort s).trace = s.trace ++ [.callEnd .busError] := rfl
@[simp] theorem abort_host : (abort s).host = s.host := rfl
@[simp] theorem abort_answers : (abort s).answers = s.answers := rfl

@[simp] theorem latchBlock_cfg : (latchBlock s).cfg = s.cfg := rfl
theorem latchBlock_enc : (latchBlock s).enc = 
      { c := s.c, n := BitVec.ofNat 4 (blockLen s.req.length s.b)
        d := loadLanes s.req s.b s.enc.d (blockLen s.req.length s.b) } := rfl
@[simp] theorem latchBlock_phase : (latchBlock s).phase = s.phase := rfl
@[simp] theorem latchBlock_req : (latchBlock s).req = s.req := rfl
@[simp] theorem latchBlock_c : (latchBlock s).c = s.c := rfl
@[simp] theorem latchBlock_nblk : (latchBlock s).nblk = s.nblk := rfl
@[simp] theorem latchBlock_b : (latchBlock s).b = s.b := rfl
theorem latchBlock_blkQ : (latchBlock s).blkQ = 
      packWords s.c (loadLanes s.req s.b s.enc.d (blockLen s.req.length s.b)) (blockLen s.req.length s.b) := rfl
theorem latchBlock_blkM : (latchBlock s).blkM = 
      (encodeWords s.c (blockLen s.req.length s.b)
        (loadLanes s.req s.b s.enc.d (blockLen s.req.length s.b))).m.toNat := rfl
@[simp] theorem latchBlock_cs : (latchBlock s).cs = s.cs := rfl
@[simp] theorem latchBlock_result : (latchBlock s).result = s.result := rfl
@[simp] theorem latchBlock_fault : (latchBlock s).fault = s.fault := rfl
@[simp] theorem latchBlock_trace : (latchBlock s).trace = s.trace := rfl
@[simp] theorem latchBlock_host : (latchBlock s).host = s.host := rfl
@[simp] theorem latchBlock_answers : (latchBlock s).answers = s.answers := rfl

@[simp] theorem State.powerUp_cfg : (s.powerUp).cfg = s.cfg := rfl
@[simp] theorem State.powerUp_enc : (s.powerUp).enc = s.enc := rfl
@[simp] theorem State.powerUp_phase : (s.powerUp).phase = .idle := rfl
@[simp] theorem State.powerUp_req : (s.powerUp).req = [] := rfl
@[simp] theorem State.powerUp_c : (s.powerUp).c = 0 := rfl
@[simp] theorem State.powerUp_nblk : (s.powerUp).nblk = 0 := rfl
@[simp] theorem State.powerUp_b : (s.powerUp).b = 0 := rfl
@[simp] theorem State.powerUp_blkQ : (s.powerUp).blkQ = Vector.replicate 9 0 := rfl
@[simp] theorem State.powerUp_blkM : (s.powerUp).blkM = 0 := rfl
@[simp] theorem State.powerUp_cs : (s.powerUp).cs = s.cfg.csInit := rfl
@[simp] theorem State.powerUp_result : (s.powerUp).result = .none := rfl
@[simp] theorem State.powerUp_fault : (s.powerUp).fault = {} := rfl
@[simp] theorem State.powerUp_trace : (s.powerUp).trace = [] := rfl
@[simp] theorem State.powerUp_host : (s.powerUp).host = s.host := rfl
@[simp] theorem State.powerUp_answers : (s.powerUp).answers = s.answers := rfl

@[simp] theorem State.withFetchWord_cfg (nbits w : Nat) : (s.withFetchWord nbits w).cfg = s.cfg := rfl
@[simp] theorem State.withFetchWord_enc (nbits w : Nat) : (s.withFetchWord nbits w).enc = s.enc := rfl
@[simp] theorem State.withFetchWord_phase (nbits w : Nat) : (s.withFetchWord nbits w).phase = s.phase := rfl
@[simp] theorem State.withFetchWord_req (nbits w : Nat) : (s.withFetchWord nbits w).req = s.req := rfl
@[simp] theorem State.withFetchWord_c (nbits w : Nat) : (s.withFetchWord nbits w).c = s.c := rfl
@[simp] theorem State.withFetchWord_nblk (nbits w : Nat) : (s.withFetchWord nbits w).nblk = s.nblk := rfl
@[simp] theorem State.withFetchWord_b (nbits w : Nat) : (s.withFetchWord nbits w).b = s.b := rfl
@[simp] theorem State.withFetchWord_blkQ (nbits w : Nat) : (s.withFetchWord nbits w).blkQ = s.blkQ := rfl
@[simp] theorem State.withFetchWord_blkM (nbits w : Nat) : (s.withFetchWord nbits w).blkM = s.blkM := rfl
@[simp] theorem State.withFetchWord_cs (nbits w : Nat) : (s.withFetchWord nbits w).cs = s.cs := rfl
@[simp] theorem State.withFetchWord_result (nbits w : Nat) : (s.withFetchWord nbits w).result = s.result := rfl
@[simp] theorem State.withFetchWord_fault (nbits w : Nat) : (s.withFetchWord nbits w).fault = s.fault := rfl
@[simp] theorem State.withFetchWord_trace (nbits w : Nat) : (s.withFetchWord nbits w).trace = s.trace := rfl
@[simp] theorem State.withFetchWord_host (nbits w : Nat) : (s.withFetchWord nbits w).host = 
      { op := .present (.bits nbits w), arrival := .atOnce } :: s.host := rfl
@[simp] theorem State.withFetchWord_answers (nbits w : Nat) : (s.withFetchWord nbits w).answers = s.answers := rfl

end Sys2Proof.Machine
end

