-- ==== Sys2Proof/Laws/Ops.lean ====
section
/-! SUPPORT. Each shared operation said once, case by case: later proofs cite these and do not unfold the operation. -/

namespace Sys2Proof.Machine

/-! ### Marks -/

@[simp] theorem FaultMarks.has_add_self (f : FaultMarks) (mark : FaultMark) : (f.add mark).has mark = true := by
  cases mark <;> rfl

theorem FaultMarks.has_add_of_has {f : FaultMarks} {mark : FaultMark} (added : FaultMark) (h : f.has mark = true) :
    (f.add added).has mark = true := by
  cases mark <;> cases added <;> simp_all [FaultMarks.has, FaultMarks.add]

/-! ### ENC's ports -/

theorem presentPorts_legal {p : EncPorts} (h : p.n.toNat ≤ 8) (s : State) : presentPorts p s = { s with enc := p } := by
  simp [presentPorts, show ¬ p.n.toNat > 8 by omega]

theorem presentPorts_illegal {p : EncPorts} (h : 8 < p.n.toNat) (s : State) :
    presentPorts p s = { s with enc := p, fault := s.fault.add .illegalLength } := by
  simp [presentPorts, show p.n.toNat > 8 by omega, State.raise]

theorem encodePorts_legal {p : EncPorts} (h : p.n.toNat ≤ 8) :
    encodePorts p = some (encodeWords p.c p.n.toNat p.d) := by
  simp [encodePorts, show ¬ p.n.toNat > 8 by omega]

theorem encodePorts_illegal {p : EncPorts} (h : 8 < p.n.toNat) : encodePorts p = none := by
  simp [encodePorts, show p.n.toNat > 8 by omega]

/-- ENC answers exactly on the legal lengths, and then with its loop's bytes. -/
theorem encodePorts_eq_some {p : EncPorts} {o : EncOut} :
    encodePorts p = some o ↔ p.n.toNat ≤ 8 ∧ o = encodeWords p.c p.n.toNat p.d := by
  by_cases h : p.n.toNat ≤ 8
  · simp [encodePorts_legal h, h, eq_comm]
  · simp [encodePorts_illegal (by omega : 8 < p.n.toNat), h]

theorem encodeWords_length {n : Nat} (c : Bit) (d : Lanes) (h : n ≤ 8) :
    (encodeWords c n d).m.toNat = if n = 0 then 0 else n + 1 := by
  unfold encodeWords
  split
  · rfl
  · simp [BitVec.toNat_ofNat, Nat.mod_eq_of_lt (show n + 1 < 16 by omega)]

/-! ### Blocks of a request -/

theorem blockLen_le_eight (len b : Nat) : blockLen len b ≤ 8 := Nat.min_le_left _ _

theorem blockLen_pos {len b : Nat} (h : 8 * b < len) : 1 ≤ blockLen len b := by
  unfold blockLen; omega

theorem length_blockSlice (req : List Byte) (b : Nat) : (blockSlice req b).length = blockLen req.length b := by
  simp [blockSlice, blockLen]

/-- Block `b` exists exactly where its first byte does. -/
theorem lt_blockCount {len b : Nat} : b < blockCount len ↔ 8 * b < len := by
  unfold blockCount; omega

theorem blockCount_eq_zero {len : Nat} : blockCount len = 0 ↔ len = 0 := by
  unfold blockCount; omega

/-! ### Requests -/

theorem accept_busy {s : State} (h : s.phase ≠ .idle) (bytes : List Byte) (isCommand : Bool) :
    accept bytes isCommand s = { s with fault := s.fault.add .busyRequest } := by
  simp [accept, h, State.raise]

theorem accept_empty {s : State} (h : s.phase = .idle) (isCommand : Bool) :
    accept [] isCommand s = { s with
      req := [], c := if isCommand then 0 else 1, nblk := 0, b := 0, result := .ok
      trace := s.trace ++ [.callBegin 0 (if isCommand then 0 else 1), .callEnd .ok] } := by
  simp [accept, h, startRequest, blockCount, endRequest, State.log]

theorem accept_bytes {s : State} {bytes : List Byte} (h : s.phase = .idle) (hb : bytes ≠ []) (isCommand : Bool) :
    accept bytes isCommand s = { s with
      req := bytes, c := if isCommand then 0 else 1, nblk := blockCount bytes.length, b := 0
      phase := startPhase s.cfg
      trace := s.trace ++ [.callBegin bytes.length (if isCommand then 0 else 1)] } := by
  have : blockCount bytes.length ≠ 0 := by simp [blockCount_eq_zero, hb]
  simp [accept, h, startRequest, this, State.log]

/-- A request does one of three things: it is refused, it ends at once, or it starts. -/
theorem accept_cases (bytes : List Byte) (isCommand : Bool) (s : State) :
    (s.phase ≠ .idle ∧ accept bytes isCommand s = { s with fault := s.fault.add .busyRequest }) ∨
    (s.phase = .idle ∧ bytes = [] ∧ accept bytes isCommand s = { s with
      req := [], c := if isCommand then 0 else 1, nblk := 0, b := 0, result := .ok
      trace := s.trace ++ [.callBegin 0 (if isCommand then 0 else 1), .callEnd .ok] }) ∨
    (s.phase = .idle ∧ bytes ≠ [] ∧ accept bytes isCommand s = { s with
      req := bytes, c := if isCommand then 0 else 1, nblk := blockCount bytes.length, b := 0
      phase := startPhase s.cfg
      trace := s.trace ++ [.callBegin bytes.length (if isCommand then 0 else 1)] }) := by
  by_cases h : s.phase = .idle
  · by_cases hb : bytes = []
    · subst hb; exact .inr (.inl ⟨h, rfl, accept_empty h isCommand⟩)
    · exact .inr (.inr ⟨h, hb, accept_bytes h hb isCommand⟩)
  · exact .inl ⟨h, accept_busy h bytes isCommand⟩

/-! ### Collaborator calls -/

theorem collaboratorCall_stalled {s : State} (returned : CallResult → State → State) (h : s.answers = []) :
    collaboratorCall returned s = s := by
  simp [collaboratorCall, h]

theorem collaboratorCall_returned {s : State} {r : CallResult} {rest : List CallResult}
    (returned : CallResult → State → State) (h : s.answers = r :: rest) :
    collaboratorCall returned s = returned r { s with answers := rest } := by
  simp [collaboratorCall, h]

/-- A call stalls or returns. -/
theorem collaboratorCall_cases (returned : CallResult → State → State) (s : State) :
    (s.answers = [] ∧ collaboratorCall returned s = s) ∨
    ∃ r rest, s.answers = r :: rest ∧ collaboratorCall returned s = returned r { s with answers := rest } := by
  cases h : s.answers with
  | nil => exact .inl ⟨rfl, collaboratorCall_stalled returned h⟩
  | cons r rest => exact .inr ⟨r, rest, rfl, collaboratorCall_returned returned h⟩

theorem advance_more {s : State} (h : s.b + 1 < s.nblk) :
    advance s = { s with b := s.b + 1, phase := startPhase s.cfg } := by
  simp [advance, h]

theorem advance_last {s : State} (h : s.nblk ≤ s.b + 1) :
    advance s = { s with b := s.b + 1, result := .ok, phase := .idle, trace := s.trace ++ [.callEnd .ok] } := by
  simp [advance, show ¬ s.b + 1 < s.nblk by omega, endRequest, State.log]

/-- The advance goes to the next block or ends the request. -/
theorem advance_cases (s : State) :
    (s.b + 1 < s.nblk ∧ advance s = { s with b := s.b + 1, phase := startPhase s.cfg }) ∨
    (s.nblk ≤ s.b + 1 ∧
      advance s = { s with b := s.b + 1, result := .ok, phase := .idle, trace := s.trace ++ [.callEnd .ok] }) := by
  by_cases h : s.b + 1 < s.nblk
  · exact .inl ⟨h, advance_more h⟩
  · exact .inr ⟨by omega, advance_last (by omega)⟩

/-- A pin event that gives a next state was taken in its phase and with a pin. -/
theorem pinEvent_next {phase : Phase} {returned : CallResult → State → State} {s t : State}
    (h : pinEvent phase returned s = .next t) :
    s.phase = phase ∧ s.cfg.hasCs = true ∧ t = collaboratorCall returned s := by
  unfold pinEvent at h
  split at h
  · split at h
    · exact ⟨‹_›, ‹_›, by injection h with h; exact h.symm⟩
    · cases h
  · cases h

/-- A bus write that gives a next state was taken in the write phase. -/
theorem execBusWrite_next {s t : State} (h : execBusWrite s = .next t) :
    s.phase = .write ∧ t = collaboratorCall busWriteReturned (latchBlock s) := by
  unfold execBusWrite at h
  split at h
  · exact ⟨‹_›, by injection h with h; exact h.symm⟩
  · cases h

end Sys2Proof.Machine
end

