-- ==== Sys2Proof/Laws/Exec.lean ====
section
/-! SUPPORT. Everything an operation that gives a next state can have done. -/

namespace Sys2Proof.Machine

/-- Every operation presents ENC's inputs, makes a request, or is one collaborator call of CSF. -/
theorem exec_cases {i : Instr} {s t : State} (h : exec i s = .next t) :
    (∃ p, i.format = .encoderPort ∧ t = presentPorts p s) ∨
    (∃ bytes isCommand, i.format ≠ .encoderPort ∧ i.format ≠ .busEvent ∧ t = accept bytes isCommand s) ∨
    (i = .csAssert ∧ s.phase = .assert ∧ s.cfg.hasCs = true ∧ t = collaboratorCall csAssertReturned s) ∨
    (i = .busWrite ∧ s.phase = .write ∧ t = collaboratorCall busWriteReturned (latchBlock s)) ∨
    (i = .csDeassert ∧ s.phase = .deassert ∧ s.cfg.hasCs = true ∧ t = collaboratorCall csDeassertReturned s) := by
  cases i with
  | encode c n d => injection h with h; exact .inl ⟨_, rfl, h.symm⟩
  | encodeEmpty c d => injection h with h; exact .inl ⟨_, rfl, h.symm⟩
  | encodeIllegal c n d => injection h with h; exact .inl ⟨_, rfl, h.symm⟩
  | send bytes isCommand => injection h with h; exact .inr (.inl ⟨_, _, nofun, nofun, h.symm⟩)
  | sendCommand byte => injection h with h; exact .inr (.inl ⟨_, _, nofun, nofun, h.symm⟩)
  | csAssert =>
    obtain ⟨hp, hc, ht⟩ := pinEvent_next (show pinEvent .assert csAssertReturned s = .next t from h)
    exact .inr (.inr (.inl ⟨rfl, hp, hc, ht⟩))
  | busWrite =>
    obtain ⟨hp, ht⟩ := execBusWrite_next (show execBusWrite s = .next t from h)
    exact .inr (.inr (.inr (.inl ⟨rfl, hp, ht⟩)))
  | csDeassert =>
    obtain ⟨hp, hc, ht⟩ := pinEvent_next (show pinEvent .deassert csDeassertReturned s = .next t from h)
    exact .inr (.inr (.inr (.inr ⟨rfl, hp, hc, ht⟩)))
  | cmdWord p => injection h with h; exact .inr (.inl ⟨_, _, nofun, nofun, h.symm⟩)
  | dataWord p => injection h with h; exact .inr (.inl ⟨_, _, nofun, nofun, h.symm⟩)
  | setContrast v => injection h with h; exact .inr (.inl ⟨_, _, nofun, nofun, h.symm⟩)

/-- Presenting ENC's inputs writes the ports and at most the ILLEGAL_LENGTH mark. -/
theorem presentPorts_cases (p : EncPorts) (s : State) :
    (p.n.toNat ≤ 8 ∧ presentPorts p s = { s with enc := p }) ∨
    (8 < p.n.toNat ∧ presentPorts p s = { s with enc := p, fault := s.fault.add .illegalLength }) := by
  by_cases h : p.n.toNat ≤ 8
  · exact .inl ⟨h, presentPorts_legal h s⟩
  · exact .inr ⟨by omega, presentPorts_illegal (by omega) s⟩

/-- CS_ASSERT stalls, asserts the line, or aborts. -/
theorem csAssert_cases (s : State) :
    (s.answers = [] ∧ collaboratorCall csAssertReturned s = s) ∨
    (∃ rest, s.answers = .ok :: rest ∧ collaboratorCall csAssertReturned s = { s with
      answers := rest, cs := .asserted, phase := .write, trace := s.trace ++ [.cs .assert .ok] }) ∨
    (∃ rest, s.answers = .err :: rest ∧ collaboratorCall csAssertReturned s = { s with
      answers := rest, cs := .unknown, phase := .idle, result := .busError
      trace := s.trace ++ [.cs .assert .err, .callEnd .busError] }) := by
  rcases collaboratorCall_cases csAssertReturned s with h | ⟨r, rest, ha, h⟩
  · exact .inl h
  · cases r
    · exact .inr (.inl ⟨rest, ha, h⟩)
    · refine .inr (.inr ⟨rest, ha, h.trans ?_⟩)
      simp [csAssertReturned, abort, endRequest, State.log]

/-- CS_DEASSERT stalls, deasserts the line and advances, or aborts. -/
theorem csDeassert_cases (s : State) :
    (s.answers = [] ∧ collaboratorCall csDeassertReturned s = s) ∨
    (∃ rest, s.answers = .ok :: rest ∧ collaboratorCall csDeassertReturned s = advance { s with
      answers := rest, cs := .deasserted, trace := s.trace ++ [.cs .deassert .ok] }) ∨
    (∃ rest, s.answers = .err :: rest ∧ collaboratorCall csDeassertReturned s = { s with
      answers := rest, cs := .unknown, phase := .idle, result := .busError
      trace := s.trace ++ [.cs .deassert .err, .callEnd .busError] }) := by
  rcases collaboratorCall_cases csDeassertReturned s with h | ⟨r, rest, ha, h⟩
  · exact .inl h
  · cases r
    · exact .inr (.inl ⟨rest, ha, h⟩)
    · refine .inr (.inr ⟨rest, ha, h.trans ?_⟩)
      simp [csDeassertReturned, abort, endRequest, State.log]

/-- BUS_WRITE latches the block, and then stalls, goes on to the deassert, advances, or aborts. -/
theorem busWrite_cases (s : State) :
    (s.answers = [] ∧ collaboratorCall busWriteReturned (latchBlock s) = latchBlock s) ∨
    (∃ rest, s.answers = .ok :: rest ∧ s.cfg.hasCs = true ∧
      collaboratorCall busWriteReturned (latchBlock s) = { latchBlock s with
        answers := rest, phase := .deassert
        trace := s.trace ++ [.write (validBytes (latchBlock s).blkQ (latchBlock s).blkM) .ok] }) ∨
    (∃ rest, s.answers = .ok :: rest ∧ s.cfg.hasCs = false ∧
      collaboratorCall busWriteReturned (latchBlock s) = advance { latchBlock s with
        answers := rest, trace := s.trace ++ [.write (validBytes (latchBlock s).blkQ (latchBlock s).blkM) .ok] }) ∨
    (∃ rest, s.answers = .err :: rest ∧
      collaboratorCall busWriteReturned (latchBlock s) = { latchBlock s with
        answers := rest, phase := .idle, result := .busError
        trace := s.trace ++ [.write (validBytes (latchBlock s).blkQ (latchBlock s).blkM) .err, .callEnd .busError] }) := by
  rcases collaboratorCall_cases busWriteReturned (latchBlock s) with ⟨ha, h⟩ | ⟨r, rest, ha, h⟩
  · exact .inl ⟨ha, h⟩
  · cases r
    · by_cases hc : s.cfg.hasCs = true
      · refine .inr (.inl ⟨rest, ha, hc, h.trans ?_⟩)
        simp [busWriteReturned, hc, State.log]
      · have hc : s.cfg.hasCs = false := by simpa using hc
        refine .inr (.inr (.inl ⟨rest, ha, hc, h.trans ?_⟩))
        simp [busWriteReturned, hc, State.log]
    · refine .inr (.inr (.inr ⟨rest, ha, h.trans ?_⟩))
      simp [busWriteReturned, abort, endRequest, State.log]

end Sys2Proof.Machine
end

