-- ==== Sys2Proof/Laws/PerInstr.lean ====
section
/-! SUPPORT. A statement about the syntax of every instruction, one lemma for each. -/

namespace Sys2Proof.Laws.EncodedFormat

/-- The form an instruction is encoded in is of the format that its row of spec/opcode_table.json names. -/
def Statement (i : Instr) : Prop := ∀ lvl : PinLevel, (Sys2Proof.encode lvl i).format = some i.format

theorem encode (c : Bit) (n : BitVec 4) (d : Lanes) : Statement (.encode c n d) := fun _ => rfl

theorem encodeEmpty (c : Bit) (d : Lanes) : Statement (.encodeEmpty c d) := fun _ => rfl

theorem encodeIllegal (c : Bit) (n : BitVec 4) (d : Lanes) : Statement (.encodeIllegal c n d) := fun _ => rfl

theorem send (bytes : List Byte) (isCommand : Bool) : Statement (.send bytes isCommand) := fun _ => rfl

theorem sendCommand (byte : Byte) : Statement (.sendCommand byte) := fun _ => rfl

theorem csAssert : Statement .csAssert := fun _ => rfl

theorem busWrite : Statement .busWrite := fun _ => rfl

theorem csDeassert : Statement .csDeassert := fun _ => rfl

theorem cmdWord (p : Byte) : Statement (.cmdWord p) := fun _ => rfl

theorem dataWord (p : Byte) : Statement (.dataWord p) := fun _ => rfl

theorem setContrast (v : BitVec 5) : Statement (.setContrast v) := fun _ => rfl

end Sys2Proof.Laws.EncodedFormat
end

