-- ==== Sys2Proof/Laws/Step.lean ====
section
/-! SUPPORT. Everything a step can do. -/

namespace Sys2Proof.Machine

/-- The host's first operation reaches the block, or none does and CSF's phase says what is next. -/
theorem todo_of_hostReady {s : State} {op : HostOp} {rest : List HostInput} (h : s.hostReady = some (op, rest)) :
    s.todo = match op with
      | .present f => .run (.form f) { s with host := rest }
      | .delay _ => .delay { s with host := rest }
      | .powerUp => .powerUp { s with host := rest } := by
  cases op <;> simp [State.todo, h]

theorem todo_of_not_hostReady {s : State} (h : s.hostReady = none) :
    s.todo = match s.nextCall with
      | none => .wait
      | some k => .run (.call k) s := by
  cases hn : s.nextCall <;> simp [State.todo, h, hn]

theorem hostReady_cons {s : State} {h : HostInput} {rest : List HostInput} (hs : s.host = h :: rest)
    (ready : s.phase = .idle ∨ h.arrival = .atOnce) : s.hostReady = some (h.op, rest) := by
  simp [State.hostReady, hs, ready]

theorem hostReady_quiet {s : State} (hq : s.Quiet) (hp : s.phase ≠ .idle) : s.hostReady = none := by
  unfold State.hostReady
  cases hs : s.host with
  | nil => rfl
  | cons h rest =>
    have := hq h (by simp [hs])
    simp [hp, this]

theorem step_present {s : State} {f : Form} {rest : List HostInput} (h : s.hostReady = some (.present f, rest)) :
    step s = match decodeForm f with
      | .ok i => exec i { s with host := rest }
      | .error why => .refused (.undecodable why) := by
  unfold step
  rw [todo_of_hostReady h]
  rfl

theorem step_delay {s : State} {us : BitVec 16} {rest : List HostInput} (h : s.hostReady = some (.delay us, rest)) :
    step s = .next { s with host := rest } := by
  unfold step
  rw [todo_of_hostReady h]

theorem step_powerUp {s : State} {rest : List HostInput} (h : s.hostReady = some (.powerUp, rest)) :
    step s = applyPowerUp { s with host := rest } := by
  unfold step
  rw [todo_of_hostReady h]

theorem step_call {s : State} (h : s.hostReady = none) :
    step s = match s.phase with
      | .idle => .next s
      | .assert => exec .csAssert s
      | .write => exec .busWrite s
      | .deassert => exec .csDeassert s := by
  unfold step
  rw [todo_of_not_hostReady h]
  unfold State.nextCall
  cases hp : s.phase <;> simp [decode, decodeCall]
  cases s.cfg.csAssertLevel <;> simp [PinLevel.other]

/-- One step, then the rest of a run. -/
theorem runSteps_succ {k : Nat} {s t : State} (h : step s = .next t) : runSteps (k + 1) s = runSteps k t := by
  have h' : Sys2Proof.core.step s = .next t := h
  simp only [runSteps, Host.Core.run]
  rw [h']

/-- A step that gives a next state did one of five things. -/
theorem step_cases {s t : State} (h : step s = .next t) :
    (∃ f rest i, s.hostReady = some (.present f, rest) ∧ decodeForm f = .ok i ∧
      exec i { s with host := rest } = .next t) ∨
    (∃ us rest, s.hostReady = some (.delay us, rest) ∧ t = { s with host := rest }) ∨
    (∃ rest, s.hostReady = some (.powerUp, rest) ∧ s.phase = .idle ∧ t = State.powerUp { s with host := rest }) ∨
    (s.hostReady = none ∧ s.phase = .idle ∧ t = s) ∨
    (s.hostReady = none ∧ ((s.phase = .assert ∧ exec .csAssert s = .next t) ∨
      (s.phase = .write ∧ exec .busWrite s = .next t) ∨ (s.phase = .deassert ∧ exec .csDeassert s = .next t))) := by
  cases hr : s.hostReady with
  | none =>
    rw [step_call hr] at h
    cases hp : s.phase <;> simp only [hp] at h
    · injection h with h; exact .inr (.inr (.inr (.inl ⟨rfl, rfl, h.symm⟩)))
    · exact .inr (.inr (.inr (.inr ⟨rfl, .inl ⟨rfl, h⟩⟩)))
    · exact .inr (.inr (.inr (.inr ⟨rfl, .inr (.inl ⟨rfl, h⟩)⟩)))
    · exact .inr (.inr (.inr (.inr ⟨rfl, .inr (.inr ⟨rfl, h⟩)⟩)))
  | some pr =>
    obtain ⟨op, rest⟩ := pr
    cases op with
    | present f =>
      rw [step_present hr] at h
      cases hd : decodeForm f with
      | ok i => rw [hd] at h; exact .inl ⟨f, rest, i, rfl, hd, h⟩
      | error why => rw [hd] at h; cases h
    | delay us =>
      rw [step_delay hr] at h
      injection h with h
      exact .inr (.inl ⟨us, rest, rfl, h.symm⟩)
    | powerUp =>
      rw [step_powerUp hr] at h
      unfold applyPowerUp at h
      split at h
      · injection h with h
        exact .inr (.inr (.inl ⟨rest, rfl, ‹_›, h.symm⟩))
      · cases h

end Sys2Proof.Machine
end

