-- ==== Sys2Proof/Machine/HostProgram.lean ====
section
/-! DEFINITION. The host programs the spec gives as host obligations (70_reset_and_hazards.md R152, R154): lists of host
operations, each presented once the one before has returned. The block enforces none of this order (R153). -/

namespace Sys2Proof.Machine

/-- A host operation that waits for the earlier call to return (41_framing.md R117). -/
def inTurn (op : HostOp) : HostInput := { op := op, arrival := .whenReturned }

/-- `send_command b`. -/
def hostCommand (b : Byte) : HostInput := inTurn (.present (.request (.sendCommand b)))

/-- `send [...], data`. -/
def hostData (bytes : List Byte) : HostInput := inTurn (.present (.request (.send bytes false)))

/-- The contrast value "masked to 5 bits" (30_encoding.md R69). -/
def contrastValue (v : Nat) : BitVec 5 := BitVec.ofNat 5 v

/-- `set_contrast(v)`: the command `0x80 | (v & 0x1F)` (30_encoding.md R69, 70_reset_and_hazards.md R152 step 4). -/
def hostContrast (v : Nat) : HostInput := hostCommand (contrastByte (contrastValue v))

/-- The cursor reset: column first, then page (70_reset_and_hazards.md R152 step 9). -/
def cursorReset (p : HostParams) : List HostInput :=
  [hostCommand (p.cmdOpcode .column0), hostCommand (p.cmdOpcode .page0)]

/-- The LCD's initialisation sequence (70_reset_and_hazards.md R152). -/
def initProgram (p : HostParams) (contrast : Nat) : List HostInput :=
  [ hostCommand (p.cmdOpcode .softwareReset), inTurn (.delay p.settleDelayUs), hostCommand (p.cmdOpcode .powerOn),
    hostContrast contrast, hostCommand (p.cmdOpcode .mirrorOff1), hostCommand (p.cmdOpcode .mirrorOff2),
    hostCommand (p.cmdOpcode .invertOff), hostCommand (p.cmdOpcode .displayOn) ] ++ cursorReset p

/-- The render: the cursor to column 0 and page 0, then lines `0 .. H-1` in increasing order, each one data SEND
(70_reset_and_hazards.md R154). The buffer is a flat list with line `i` at bytes `W*i` to `W*i + W - 1`, and where it is
shorter than `W*H` the line sent is short or empty (DESIGN CHOICE, log 25: the spec speaks only of `line_bytes`). -/
def renderProgram (p : HostParams) (buffer : List Byte) : List HostInput :=
  cursorReset p ++ (List.range p.height).map fun i => hostData ((buffer.drop (p.width * i)).take p.width)

end Sys2Proof.Machine
end

