-- ==== Sys2Proof/Machine/Assembly.lean ====
section
/-! DEFINITION. The spec's textual form of host programs (30_encoding.md R75, R76), read line by line into host
operations. Text only: the block never sees it (log 22). -/

namespace Sys2Proof.Machine

/-- A line of a program (30_encoding.md R75). -/
inductive AsmLine where
  /-- `encode <c>, [<b0>, ...]`, 0..8 bytes. -/
  | encode (c : Bit) (bytes : List Byte)
  /-- `send [<b0>, ...], cmd|data`. -/
  | send (bytes : List Byte) (isCommand : Bool)
  /-- `send_command <b>`. -/
  | sendCommand (byte : Byte)
  /-- `delay_us <n>`. -/
  | delayUs (us : BitVec 16)
  deriving DecidableEq, Repr

/-- The one pseudo-instruction: `send_command <b>` expands to `send [<b>], cmd` (30_encoding.md R76). -/
def AsmLine.expand : AsmLine → AsmLine
  | .sendCommand byte => .send [byte] true
  | .encode c bytes => .encode c bytes
  | .send bytes isCommand => .send bytes isCommand
  | .delayUs us => .delayUs us

/-- The host operation of a line; `encode` takes at most 8 bytes, and lanes beyond them are don't-care (R75,
40_encoder.md R92): driven with 0 here. -/
def AsmLine.hostOp : AsmLine → Option HostOp
  | .encode c bytes =>
    if bytes.length ≤ 8 then
      some (.present (.encoderPort c (BitVec.ofNat 4 bytes.length) (loadLanes bytes 0 zeroLanes bytes.length)))
    else none
  | .send bytes isCommand => some (.present (.request (.send bytes isCommand)))
  | .sendCommand byte => some (.present (.request (.sendCommand byte)))
  | .delayUs us => some (.delay us)

/-- The lexemes of a line, read with the word so far: words, and `,` `[` `]` by themselves. A comment starts with `;`
(30_encoding.md R75). Only spaces part words, and any number of them may stand (DESIGN CHOICE, log 26). -/
def lexemes : List Char → List Char → List (List Char)
  | word, [] => if word = [] then [] else [word]
  | word, ch :: rest =>
    let done := if word = [] then [] else [word]
    if ch = ';' then done
    else if ch = ' ' then done ++ lexemes [] rest
    else if ch = ',' ∨ ch = '[' ∨ ch = ']' then done ++ [ch] :: lexemes [] rest
    else lexemes (word ++ [ch]) rest

/-- A hexadecimal digit, its letter in either case (DESIGN CHOICE, log 26: R75 writes `HH` and says nothing of the case). -/
def hexDigit (ch : Char) : Option Nat :=
  let n := ch.toNat
  if 48 ≤ n ∧ n ≤ 57 then some (n - 48)
  else if 65 ≤ n ∧ n ≤ 70 then some (n - 55)
  else if 97 ≤ n ∧ n ≤ 102 then some (n - 87)
  else none

/-- A byte, `0xHH`: two digits after a lower-case `x` (30_encoding.md R75). -/
def readByte : List Char → Option Byte
  | ['0', 'x', hi, lo] =>
    match hexDigit hi, hexDigit lo with
    | some h, some l => some (BitVec.ofNat 8 (16 * h + l))
    | _, _ => none
  | _ => none

/-- A number, read after the value so far: decimal only (DESIGN CHOICE, log 26: R75 gives `<n>` no base). -/
def readDecimal : Nat → List Char → Option Nat
  | acc, [] => some acc
  | acc, ch :: rest =>
    if 48 ≤ ch.toNat ∧ ch.toNat ≤ 57 then readDecimal (10 * acc + (ch.toNat - 48)) rest else none

/-- What follows a byte of a list: `]`, or `,` and the next byte; and the lexemes after the list. -/
def readMore : List (List Char) → Option (List Byte × List (List Char))
  | [] => none
  | [close] => if close = [']'] then some ([], []) else none
  | mark :: word :: rest =>
    if mark = [']'] then some ([], word :: rest)
    else if mark = [','] then
      match readByte word, readMore rest with
      | some x, some (xs, after) => some (x :: xs, after)
      | _, _ => none
    else none

/-- The bytes after a `[` up to its `]`, with a `,` between two of them (R75), and the lexemes after the list. -/
def readBytes : List (List Char) → Option (List Byte × List (List Char))
  | [] => none
  | word :: rest =>
    if word = [']'] then some ([], rest)
    else
      match readByte word, readMore rest with
      | some x, some (xs, after) => some (x :: xs, after)
      | _, _ => none

/-- A line from its lexemes. -/
def readLine : List (List Char) → Option AsmLine
  | [name, arg] =>
    if name = "send_command".toList then (readByte arg).map .sendCommand
    else if name = "delay_us".toList then
      match readDecimal 0 arg with
      | some n => if n < 65536 then some (.delayUs (BitVec.ofNat 16 n)) else none
      | none => none
    else none
  | name :: ['['] :: rest =>
    if name = "send".toList then
      match readBytes rest with
      | some (bytes, [[','], kind]) =>
        if kind = "cmd".toList then some (.send bytes true)
        else if kind = "data".toList then some (.send bytes false)
        else none
      | _ => none
    else none
  | name :: c :: [','] :: ['['] :: rest =>
    if name = "encode".toList then
      match readBytes rest with
      | some (bytes, []) =>
        if c = ['0'] then some (.encode 0 bytes) else if c = ['1'] then some (.encode 1 bytes) else none
      | _ => none
    else none
  | _ => none

/-- The host operation a line of text stands for; none for a line the form of R75 does not have. -/
def assembleLine (text : List Char) : Option HostOp :=
  match readLine (lexemes [] text) with
  | some line => line.hostOp
  | none => none

end Sys2Proof.Machine
end

