-- ==== Sys2Proof/Tests/Slice0.lean ====
section
/-! SUPPORT. Tests on values written out from the spec, and for each statement with hypotheses a witness that meets
them. Vectors S, V, F and P are those of spec 95_test_vectors.md. -/

namespace Sys2Proof.Tests

open Sys2Proof.Machine

/-- What a next state holds; nothing of a fault or a refusal. -/
def seen {α : Type} (look : State → α) : StepOutcome → Option α
  | .next s => some (look s)
  | .fault _ => none
  | .refused _ => none

/-- The first lanes driven with `bytes`, the others with 0. -/
def lanesOf (bytes : List Byte) : Lanes := loadLanes bytes 0 zeroLanes bytes.length

/-- A data request in progress. -/
def serving (phase : Phase) (req : List Byte) (b : Nat) (answers : List CallResult) : State :=
  { State.reset with
    phase := phase, req := req, c := 1, nblk := blockCount req.length, b := b, answers := answers
    cs := if phase = .assert then .unknown else .asserted }

/-- The same with its configuration without a chip-select pin. -/
def servingNoPin (req : List Byte) (b : Nat) (answers : List CallResult) : State :=
  { State.resetWith { hasCs := false } with
    phase := .write, req := req, c := 1, nblk := blockCount req.length, b := b, answers := answers }

/-- The bytes of `[A5]` as a data block in the latch, as after its write (V6). -/
def written (answers : List CallResult) : State :=
  { serving .deassert [0xA5] 0 answers with blkQ := #v[0xD2, 0x80, 0, 0, 0, 0, 0, 0, 0], blkM := 2 }

/-- The host's list holding one operation. -/
def presenting (op : HostOp) (arrival : Arrival) (s : State) : State :=
  { s with host := [{ op := op, arrival := arrival }] }

/-! ### WellFormed: an ill-formed term for each check, and the terms at its edges -/

theorem test_wellFormed_encodeLength :
    (Instr.encode 0 0 zeroLanes).illFormed = some .encodeLength ∧
    (Instr.encode 0 9 zeroLanes).illFormed = some .encodeLength ∧
    (Instr.encode 0 1 zeroLanes).WellFormed ∧ (Instr.encode 1 8 zeroLanes).WellFormed := by decide

theorem test_wellFormed_illegalLength :
    (Instr.encodeIllegal 0 8 zeroLanes).illFormed = some .illegalLength ∧
    (Instr.encodeIllegal 0 9 zeroLanes).WellFormed ∧ (Instr.encodeIllegal 0 15 zeroLanes).WellFormed := by decide

/-! ### Decode: forms and words written out from 30_encoding.md -/

theorem test_decode_ports :
    decodeForm (.encoderPort 1 0b0000 zeroLanes) = .ok (.encodeEmpty 1 zeroLanes) ∧
    decodeForm (.encoderPort 1 0b0001 zeroLanes) = .ok (.encode 1 1 zeroLanes) ∧
    decodeForm (.encoderPort 0 0b1000 zeroLanes) = .ok (.encode 0 8 zeroLanes) ∧
    decodeForm (.encoderPort 0 0b1001 zeroLanes) = .ok (.encodeIllegal 0 9 zeroLanes) ∧
    decodeForm (.encoderPort 0 0b1111 zeroLanes) = .ok (.encodeIllegal 0 15 zeroLanes) :=
  ⟨rfl, rfl, rfl, rfl, rfl⟩

theorem test_decode_requests :
    decodeForm (.request (.send [0x12, 0x34] false)) = .ok (.send [0x12, 0x34] false) ∧
    decodeForm (.request (.sendCommand 0x88)) = .ok (.sendCommand 0x88) := ⟨rfl, rfl⟩

theorem test_decode_words :
    decodeForm (.wire9 0b0_10001000) = .ok (.cmdWord 0x88) ∧
    decodeForm (.wire9 0b1_00000001) = .ok (.dataWord 0x01) := ⟨rfl, rfl⟩

theorem test_decode_contrast :
    decodeForm (.payloadByte 0b100_01000) = .ok (.setContrast 8) ∧
    decodeForm (.payloadByte 0b100_11111) = .ok (.setContrast 31) ∧
    decodeForm (.payloadByte 0b101_00000) = .error (.payloadNotListed 0b101_00000) := ⟨rfl, rfl, rfl⟩

theorem test_decode_calls :
    decode .low (.call (.pinSet .low)) = .ok .csAssert ∧ decode .low (.call (.pinSet .high)) = .ok .csDeassert ∧
    decode .high (.call (.pinSet .high)) = .ok .csAssert ∧ decode .high (.call .busWrite) = .ok .busWrite :=
  ⟨rfl, rfl, rfl, rfl⟩

/-- S3: `set_contrast(40)` and `set_contrast(8)` are one byte, 0x88. -/
theorem test_contrast_mask :
    hostContrast 40 = hostCommand 0x88 ∧ hostContrast 8 = hostCommand 0x88 ∧ hostContrast 31 = hostCommand 0x9F := by
  decide

/-! ### ENC -/

theorem test_encode_V13 :
    seen State.encOut (exec (.encode 1 8 #v[1, 2, 3, 4, 5, 6, 7, 8]) State.reset) =
      some (some { m := 9, q := #v[0x80, 0xC0, 0xA0, 0x70, 0x48, 0x2C, 0x1A, 0x0F, 0x08] }) := by decide

theorem test_encode_V30 :
    seen State.encOut (exec (.encode 1 1 #v[0xA5, 0xFF, 0xFF, 0xFF, 0xFF, 0xFF, 0xFF, 0xFF]) State.reset) =
      some (some { m := 2, q := #v[0xD2, 0x80, 0, 0, 0, 0, 0, 0, 0] }) := by decide

theorem test_encodeEmpty_V28 :
    seen State.encOut (exec (.encodeEmpty 1 (lanesOf [0xFF])) State.reset) =
      some (some { m := 0, q := #v[0, 0, 0, 0, 0, 0, 0, 0, 0] }) := by decide

theorem test_encodeIllegal_V29 :
    seen (fun s => (s.encOut, s.fault.illegalLength)) (exec (.encodeIllegal 0 9 zeroLanes) State.reset) =
      some (none, true) := by decide

theorem test_encodedBytes_V16_V17_V26 :
    encodedBytes 1 [0xAB, 0xCD, 0xEF] = [0xD5, 0xF3, 0x7D, 0xE0] ∧
    encodedBytes 1 [0xFF, 0xFF, 0xFF, 0xFF, 0xFF, 0xFF, 0xFF] = [0xFF, 0xFF, 0xFF, 0xFF, 0xFF, 0xFF, 0xFF, 0xFE] ∧
    encodedBytes 1 [0, 0, 0, 0, 0, 0, 0, 0x5A] = [0x80, 0x40, 0x20, 0x10, 0x08, 0x04, 0x02, 0x01, 0x5A] := by decide

/-- The cross-check of R93 with V16. -/
theorem test_unpack_V16 :
    let q : Block := #v[0xD5, 0xF3, 0x7D, 0xE0, 0, 0, 0, 0, 0]
    unpackControl q = 1 ∧ unpackPayload q 0 = 0xAB ∧ unpackPayload q 1 = 0xCD ∧ unpackPayload q 2 = 0xEF := by decide

/-- The cross-check of R90 with V15: `0 00010010`, `0 00110100` and six zeros. -/
theorem test_stream_V15 :
    streamBits (encodedBytes 0 [0x12, 0x34]) =
      [0, 0,0,0,1,0,0,1,0, 0, 0,0,1,1,0,1,0,0, 0,0,0,0,0,0] := by decide

/-! ### Requests -/

/-- R100's worked example: 9 data bytes are accepted with `c = 1` and `nblk = 2`. -/
theorem test_send_accepts :
    seen (fun s => (s.c, s.nblk, s.phase, s.trace)) (exec (.send [1, 2, 3, 4, 5, 6, 7, 8, 9] false) State.reset) =
      some (1, 2, .assert, [.callBegin 9 1]) := by decide

/-- S4: the empty request. -/
theorem test_send_empty_S4 :
    seen (fun s => (s.result, s.phase, s.cs, s.trace)) (exec (.send [] true) State.reset) =
      some (.ok, .idle, .unknown, [.callBegin 0 0, .callEnd .ok]) := by decide

/-- P1's accepting step. -/
theorem test_sendCommand_P1 :
    seen (fun s => (s.c, s.nblk, s.phase, s.cs, s.trace)) (exec (.sendCommand 0x88) State.reset) =
      some (0, 1, .assert, .unknown, [.callBegin 1 0]) := by decide

/-- F12: a request in mid-request. -/
theorem test_sendCommand_busy_F12 :
    seen (fun s => (s.fault.busyRequest, s.phase, s.req, s.trace))
        (exec (.sendCommand 0x88) (serving .write [0xA5] 0 [])) =
      some (true, .write, [0xA5], []) := by decide

theorem test_cmdWord :
    seen (fun s => (s.req, s.c, s.phase)) (exec (.cmdWord 0x88) State.reset) = some ([0x88], 0, .assert) := by decide

theorem test_dataWord :
    seen (fun s => (s.req, s.c, s.phase)) (exec (.dataWord 0x01) State.reset) = some ([0x01], 1, .assert) := by decide

theorem test_setContrast_S3 :
    seen (fun s => (s.req, s.c, s.phase)) (exec (.setContrast 31) State.reset) = some ([0x9F], 0, .assert) := by decide

/-! ### Bus events -/

/-- F6: the assert fails. -/
theorem test_csAssert_err_F6 :
    seen (fun s => (s.cs, s.phase, s.result, s.trace)) (exec .csAssert (serving .assert [0x12, 0x34] 0 [.err])) =
      some (.unknown, .idle, .busError, [.cs .assert .err, .callEnd .busError]) := by decide

theorem test_csAssert_ok :
    seen (fun s => (s.cs, s.phase, s.result)) (exec .csAssert (serving .assert [0x88] 0 [.ok])) =
      some (.asserted, .write, .none) := by decide

/-- F7: the write of `[12 34]` fails; the line stays asserted. -/
theorem test_busWrite_err_F7 :
    seen (fun s => (s.cs, s.phase, s.result, s.trace)) (exec .busWrite (serving .write [0x12, 0x34] 0 [.err])) =
      some (.asserted, .idle, .busError, [.write [0x89, 0x4D, 0x00] .err, .callEnd .busError]) := by decide

/-- P2's second block. -/
theorem test_busWrite_ok_P2 :
    seen (fun s => (s.phase, s.b, s.blkM, s.blkQ, s.trace))
        (exec .busWrite (serving .write [1, 2, 3, 4, 5, 6, 7, 8, 9] 1 [.ok])) =
      some (.deassert, 1, 2, #v[0x84, 0x80, 0, 0, 0, 0, 0, 0, 0], [.write [0x84, 0x80] .ok]) := by decide

/-- F8: the first deassert fails. -/
theorem test_csDeassert_err_F8 :
    seen (fun s => (s.cs, s.phase, s.b, s.result))
        (exec .csDeassert (serving .deassert [0x20, 0x21, 0x22, 0x23, 0x24, 0x25, 0x26, 0x27, 0x28, 0x29] 0 [.err])) =
      some (.unknown, .idle, 0, .busError) := by decide

/-- P1's last step. -/
theorem test_csDeassert_ok_P1 :
    seen (fun s => (s.cs, s.phase, s.b, s.result, s.trace)) (exec .csDeassert (serving .deassert [0x88] 0 [.ok])) =
      some (.deasserted, .idle, 1, .ok, [.cs .deassert .ok, .callEnd .ok]) := by decide

/-! ### The machine -/

/-- F11: a write that never returns leaves the latch filled and nothing in the trace. -/
theorem test_step_stalls_F11 :
    seen (fun s => (s.phase, s.blkM, s.blkQ, s.trace)) (step (serving .write [0xA5] 0 [])) =
      some (.write, 2, #v[0xD2, 0x80, 0, 0, 0, 0, 0, 0, 0], []) := by decide

/-- F10's last write: without a pin the request ends with it. -/
theorem test_step_noPin_F10 :
    seen (fun s => (s.phase, s.cs, s.result, s.trace)) (step (servingNoPin [1, 2, 3, 4, 5, 6, 7, 8, 9, 10] 1 [.ok])) =
      some (.idle, .unknown, .ok, [.write [0x84, 0xC2, 0x80] .ok, .callEnd .ok]) := by decide

theorem test_withFetchWord_runs :
    seen (fun s => (s.req, s.host)) (step (State.reset.withFetchWord 16 0b1_00000001)) = some ([0x01], []) := by decide

theorem test_result_codes : Result.ok.code = 0 ∧ Result.busError.code = 1 ∧ Result.none.code = 2 := by decide

/-- R152: the steps of the initialisation, the contrast masked to 5 bits. -/
theorem test_initProgram_length (p : HostParams) :
    (initProgram p 40).length = 10 ∧ (initProgram p 40)[3]? = some (hostCommand 0x88) := ⟨rfl, rfl⟩

/-- R154: the cursor commands, then one SEND for each line. -/
theorem test_renderProgram_length (p : HostParams) (buffer : List Byte) :
    (renderProgram p buffer).length = p.height + 2 := by
  simp [renderProgram, cursorReset]

/-- P1's line of text. -/
theorem test_assembleLine_P1 :
    assembleLine "send_command 0x88        ; set_contrast(8)".toList =
      some (.present (.request (.sendCommand 0x88))) := by decide

/-- Bytes stand with a comma between them (R75). -/
theorem test_assembleLine_send :
    assembleLine "send    [0x01, 0x02], data".toList = some (.present (.request (.send [0x01, 0x02] false))) ∧
    assembleLine "send [], cmd".toList = some (.present (.request (.send [] true))) ∧
    assembleLine "send [0x01 0x02], data".toList = none ∧ assembleLine "send [0x01,], data".toList = none := by decide

/-! ### Witnesses: states and operands that meet the hypotheses of each statement

For a statement without hypotheses there is none. Each is named after its statement; `_edge` marks a second one at the
other end of a range, or for another clause. -/

/-- A decoder's answer. -/
def accepts {α : Type} : Except Reject α → Option α
  | .ok a => some a
  | .error _ => none

theorem witness_DecodeOfEncodeIsInstr : (Instr.encode 1 8 zeroLanes).WellFormed ∧ Instr.csAssert.WellFormed := by decide

theorem witness_EncodeOfDecodeIsForm :
    (Encoded.form (.payloadByte 0x9F)).format ≠ none ∧
    decode .low (.form (.payloadByte 0x9F)) = .ok (.setContrast 31) := ⟨by decide, rfl⟩

theorem witness_DecodedIsWellFormed : decode .low (.form (.bits 8 9)) = .ok (.encodeIllegal 0 9 zeroLanes) := rfl

theorem witness_ContrastIsTheOnlyListedPayload : (0x9F : Byte) = 0x80 ||| ((0xFF : BitVec 8) &&& 0x1F) := by decide

theorem witness_ContrastIsTheOnlyListedPayload_edge :
    (∀ v : BitVec 8, (0xA0 : Byte) ≠ 0x80 ||| (v &&& 0x1F)) ∧ ∀ v : BitVec 8, (0x7F : Byte) ≠ 0x80 ||| (v &&& 0x1F) := by
  constructor <;> intro v h <;> have := congrArg (BitVec.extractLsb' 5 3) h <;>
    simp [BitVec.extractLsb'_or, BitVec.extractLsb'_and] at this

theorem witness_EncLoopIsClosedForm : (0 : BitVec 4).toNat ≤ 8 ∧ (8 : BitVec 4).toNat ≤ 8 := by decide

theorem witness_EncodePlacesFields : 1 ≤ (1 : BitVec 4).toNat ∧ (1 : BitVec 4).toNat ≤ 8 ∧ 0 < (1 : BitVec 4).toNat := by
  decide

theorem witness_EncodePlacesFields_edge :
    1 ≤ (8 : BitVec 4).toNat ∧ (8 : BitVec 4).toNat ≤ 8 ∧ 7 < (8 : BitVec 4).toNat := by decide

theorem witness_EncodeIllegalRaisesMark : 9 ≤ (9 : BitVec 4).toNat ∧ 9 ≤ (15 : BitVec 4).toNat := by decide

theorem witness_EncTouchesNoCsfState :
    decode .low (.form (.encoderPort 1 8 zeroLanes)) = .ok (.encode 1 8 zeroLanes) ∧ (8 : BitVec 4).toNat ≤ 8 := ⟨rfl, by decide⟩

theorem witness_EncTouchesNoCsfState_edge :
    decode .low (.form (.encoderPort 1 9 zeroLanes)) = .ok (.encodeIllegal 1 9 zeroLanes) ∧ 8 < (9 : BitVec 4).toNat :=
  ⟨rfl, by decide⟩

/-- The four lengths at the edges of the clauses: 0, 1, 7 and 8 words. -/
theorem witness_PaddingIsZero :
    (∃ o, encodePorts { c := 1, n := 0, d := zeroLanes } = some o ∧ o.m.toNat ≤ 0) ∧
    (∃ o, encodePorts { c := 1, n := 1, d := zeroLanes } = some o ∧ o.m.toNat ≤ 2 ∧ 1 < 8) ∧
    (∃ o, encodePorts { c := 1, n := 7, d := zeroLanes } = some o ∧ o.m.toNat ≤ 8 ∧ 7 < 8) ∧
    ∃ o, encodePorts { c := 1, n := 8, d := zeroLanes } = some o ∧ o.m.toNat = 9 :=
  ⟨⟨_, rfl, by decide⟩, ⟨_, rfl, by decide, by decide⟩, ⟨_, rfl, by decide, by decide⟩, ⟨_, rfl, by decide⟩⟩

theorem witness_UnusedLanesDoNotMatter :
    (∀ k, k < (1 : BitVec 4).toNat → lane (lanesOf [0xA5]) k = lane (lanesOf [0xA5, 0xFF]) k) ∧
    lanesOf [0xA5] ≠ lanesOf [0xA5, 0xFF] := by decide

theorem witness_EncInverse :
    (∃ o, encodePorts { c := 1, n := 1, d := lanesOf [0xA5] } = some o ∧ 1 ≤ (1 : BitVec 4).toNat) ∧
    ∃ o, encodePorts { c := 0, n := 8, d := lanesOf [0xA5] } = some o ∧ 1 ≤ (8 : BitVec 4).toNat :=
  ⟨⟨_, rfl, by decide⟩, ⟨_, rfl, by decide⟩⟩

/-- The second clause: two different lane sets with one encoding. -/
theorem witness_EncInverse_edge :
    1 ≤ (1 : BitVec 4).toNat ∧ (1 : BitVec 4).toNat ≤ 8 ∧ lanesOf [0xA5] ≠ lanesOf [0xA5, 0xFF] ∧
    encodePorts { c := 1, n := 1, d := lanesOf [0xA5] } = encodePorts { c := 1, n := 1, d := lanesOf [0xA5, 0xFF] } := by
  decide

theorem witness_EncOneMoreWord :
    (∃ o o', encodePorts { c := 1, n := BitVec.ofNat 4 0, d := zeroLanes } = some o ∧
      encodePorts { c := 1, n := BitVec.ofNat 4 (0 + 1), d := zeroLanes } = some o') ∧
    ∃ o o', 7 < 8 ∧ encodePorts { c := 1, n := BitVec.ofNat 4 7, d := zeroLanes } = some o ∧
      encodePorts { c := 1, n := BitVec.ofNat 4 (7 + 1), d := zeroLanes } = some o' :=
  ⟨⟨_, _, rfl, rfl⟩, ⟨_, _, by decide, rfl, rfl⟩⟩

theorem witness_ControlBitMask :
    ∃ o₀ o₁, encodePorts { c := 0, n := 8, d := zeroLanes } = some o₀ ∧
      encodePorts { c := 1, n := 8, d := zeroLanes } = some o₁ := ⟨_, _, rfl, rfl⟩

theorem witness_EncodedBlockIsWordsEndToEnd :
    (∃ o, encodePorts { c := 1, n := 0, d := zeroLanes } = some o) ∧
    ∃ o, encodePorts { c := 1, n := 8, d := zeroLanes } = some o := ⟨⟨_, rfl⟩, ⟨_, rfl⟩⟩

theorem witness_SendStartsRequest :
    State.reset.phase = .idle ∧ ([0x12] : List Byte) ≠ [] ∧
    (State.resetWith { hasCs := false }).phase = .idle := by decide

theorem witness_EmptySendEndsAtOnce : State.reset.phase = .idle := rfl

theorem witness_BusyRequestIsRefused :
    (serving .write [0xA5] 0 []).phase ≠ .idle ∧
    ((∃ bytes isCommand, Instr.sendCommand 0x88 = .send bytes isCommand) ∨ ∃ byte, Instr.sendCommand 0x88 = .sendCommand byte) :=
  ⟨by decide, .inr ⟨_, rfl⟩⟩

theorem witness_BusyRequestIsRefused_edge :
    (serving .deassert [0xA5] 0 []).phase ≠ .idle ∧
    ((∃ bytes isCommand, Instr.send [] true = .send bytes isCommand) ∨ ∃ byte, Instr.send [] true = .sendCommand byte) :=
  ⟨by decide, .inl ⟨_, _, rfl⟩⟩

theorem witness_SendCommandSendsOneByte : State.reset.phase = .idle := rfl

theorem witness_WordsStartOneByteRequests :
    State.reset.phase = .idle ∧
    ((Instr.cmdWord 0x88 = .cmdWord 0x88 ∧ (0 : Bit) = 0) ∨ (Instr.cmdWord 0x88 = .dataWord 0x88 ∧ (0 : Bit) = 1) ∨
      ∃ v : BitVec 5, Instr.cmdWord 0x88 = .setContrast v ∧ (0x88 : Byte) = 0x80 ||| v.setWidth 8 ∧ (0 : Bit) = 0) :=
  ⟨rfl, .inl ⟨rfl, rfl⟩⟩

theorem witness_WordsStartOneByteRequests_edge :
    State.reset.phase = .idle ∧
    ∃ v : BitVec 5, Instr.setContrast 31 = .setContrast v ∧ (0x9F : Byte) = 0x80 ||| v.setWidth 8 ∧ (0 : Bit) = 0 :=
  ⟨rfl, 31, rfl, by decide, rfl⟩

theorem witness_WordsWhileBusyAreRefused :
    (serving .write [0xA5] 0 []).phase ≠ .idle ∧
    ((∃ p, Instr.dataWord 1 = .cmdWord p) ∨ (∃ p, Instr.dataWord 1 = .dataWord p) ∨ ∃ v, Instr.dataWord 1 = .setContrast v) :=
  ⟨by decide, .inr (.inl ⟨_, rfl⟩)⟩

theorem witness_OneWordBlockCarriesTheWord : 0 < 16 ∧ 8 < 16 ∧ 9 < 16 ∧ 15 < 16 := by decide

theorem witness_BlocksCoverRequest :
    0 < blockCount (List.replicate 9 (0 : Byte)).length ∧ 1 + 1 = blockCount (List.replicate 9 (0 : Byte)).length ∧
    0 + 1 < blockCount (List.replicate 9 (0 : Byte)).length ∧
    0 < (blockSlice (List.replicate 9 (0 : Byte)) 1).length := by decide

theorem witness_CsAssertStep :
    (serving .assert [0x88] 0 [.ok]).phase = .assert ∧ (serving .assert [0x88] 0 [.ok]).cfg.hasCs = true ∧
    (serving .assert [0x88] 0 [.ok]).answers = [.ok] ∧ (serving .assert [0x88] 0 [.err]).answers = [.err] ∧
    (serving .assert [0x88] 0 []).answers = [] := by decide

theorem witness_BusWriteStep :
    let s := serving .write [1, 2, 3, 4, 5, 6, 7, 8, 9] 1 [.ok]
    s.phase = .write ∧ 8 * s.b < s.req.length ∧ s.answers.head? = some .ok ∧ s.cfg.hasCs = true ∧
    (serving .write [0x12, 0x34] 0 [.err]).answers.head? = some .err ∧ (serving .write [0xA5] 0 []).answers = [] := by
  decide

/-- Without a pin: a block with another after it, and the last one. -/
theorem witness_BusWriteStep_edge :
    let s := servingNoPin [1, 2, 3, 4, 5, 6, 7, 8, 9] 0 [.ok]
    let t := servingNoPin [1, 2, 3, 4, 5, 6, 7, 8, 9] 1 [.ok]
    s.phase = .write ∧ 8 * s.b < s.req.length ∧ s.cfg.hasCs = false ∧ s.b + 1 < s.nblk ∧
    t.phase = .write ∧ 8 * t.b < t.req.length ∧ t.cfg.hasCs = false ∧ t.nblk ≤ t.b + 1 := by decide

theorem witness_BusWriteLatchesEncOutput :
    let s := serving .write [1, 2, 3, 4, 5, 6, 7, 8] 0 [.ok]
    s.phase = .write ∧ 8 * s.b < s.req.length := by decide

theorem witness_CsDeassertStep :
    let s := serving .deassert [1, 2, 3, 4, 5, 6, 7, 8, 9] 0 [.ok]
    let t := serving .deassert [1, 2, 3, 4, 5, 6, 7, 8, 9] 1 [.ok]
    s.phase = .deassert ∧ s.cfg.hasCs = true ∧ s.answers = [.ok] ∧ s.b + 1 < s.nblk ∧
    t.phase = .deassert ∧ t.cfg.hasCs = true ∧ t.answers = [.ok] ∧ t.nblk ≤ t.b + 1 ∧
    (serving .deassert [1] 0 [.err]).answers = [.err] ∧ (serving .deassert [1] 0 []).answers = [] := by decide

theorem witness_BusEventsOutOfPhaseStop :
    State.reset.phase ≠ .assert ∧ State.reset.phase ≠ .write ∧ State.reset.phase ≠ .deassert ∧
    (let s := { servingNoPin [1] 0 [] with phase := .assert }
     s.cfg.hasCs = false ∧ s.phase = .assert) ∧
    (let s := { servingNoPin [1] 0 [] with phase := .deassert }
     s.cfg.hasCs = false ∧ s.phase = .deassert) := by decide

theorem witness_BusEventFrame :
    (∃ t, exec .csAssert (serving .assert [1] 0 [.ok]) = .next t) ∧
    (∃ t, exec .busWrite (serving .write [1] 0 []) = .next t) ∧
    ∃ t, exec .csDeassert (serving .deassert [1] 0 [.err]) = .next t := ⟨⟨_, rfl⟩, ⟨_, rfl⟩, ⟨_, rfl⟩⟩

theorem witness_StepRunsPresentedOperation :
    let s := presenting (.present (.request (.sendCommand 0x88))) .whenReturned State.reset
    s.host = [{ op := .present (.request (.sendCommand 0x88)), arrival := .whenReturned }] ∧ s.phase = .idle ∧
    decode s.cfg.csAssertLevel (.form (.request (.sendCommand 0x88))) = .ok (.sendCommand 0x88) := ⟨rfl, rfl, rfl⟩

theorem witness_StepRunsPresentedOperation_edge :
    let s := presenting (.present (.request (.sendCommand 0x88))) .atOnce (serving .write [0xA5] 0 [])
    s.host = [{ op := .present (.request (.sendCommand 0x88)), arrival := .atOnce }] ∧ s.phase ≠ .idle ∧
    decode s.cfg.csAssertLevel (.form (.request (.sendCommand 0x88))) = .ok (.sendCommand 0x88) :=
  ⟨rfl, by decide, rfl⟩

theorem quiet_of_host_nil {s : State} (h : s.host = []) : s.Quiet := by
  simp [State.Quiet, h]

theorem witness_StepRunsNextBusEvent :
    (serving .assert [1] 0 []).Quiet ∧ (serving .write [1] 0 []).Quiet ∧ (serving .deassert [1] 0 []).Quiet ∧
    (presenting (.delay 100) .whenReturned (serving .write [1] 0 [])).Quiet ∧
    (serving .assert [1] 0 []).phase = .assert ∧ (serving .write [1] 0 []).phase = .write ∧
    (serving .deassert [1] 0 []).phase = .deassert :=
  ⟨quiet_of_host_nil rfl, quiet_of_host_nil rfl, quiet_of_host_nil rfl, by simp [State.Quiet, presenting], rfl, rfl, rfl⟩

theorem witness_StepWaitsOrDelays :
    State.reset.phase = .idle ∧ State.reset.host = [] ∧
    (presenting (.delay 100) .whenReturned State.reset).phase = .idle ∧
    (presenting (.delay 100) .whenReturned State.reset).host = [{ op := .delay 100, arrival := .whenReturned }] := by
  decide

theorem witness_PowerUpResetsCsf :
    (let s := presenting .powerUp .whenReturned State.reset
     s.host = [{ op := .powerUp, arrival := .whenReturned }] ∧ s.phase = .idle) ∧
    (let s := presenting .powerUp .atOnce (serving .write [1] 0 [])
     s.host = [{ op := .powerUp, arrival := .atOnce }] ∧ s.phase ≠ .idle) := by decide

theorem outByte_zeros (j : Nat) : outByte (Vector.replicate 9 0) j = 0 := by
  simp only [outByte]
  by_cases h : j < 9 <;> simp [h]

/-- A state of a request in progress that meets the invariant: one block, its write next. -/
theorem inv_serving_write (answers : List CallResult) : (serving .write [0xA5] 0 answers).Inv where
  blocks := rfl
  index := Nat.zero_le 1
  busy := fun _ => Nat.zero_lt_one
  noPin := fun h => by cases h
  line := fun _ _ => rfl
  lineKept := fun h => by cases h
  latchLength := .inl rfl
  latchPadding := fun j _ => outByte_zeros j
  latched := fun h => by cases h

/-- The same in the last phase, the latch filled. -/
theorem inv_written (answers : List CallResult) : (written answers).Inv where
  blocks := rfl
  index := Nat.zero_le 1
  busy := fun _ => Nat.zero_lt_one
  noPin := fun h => by cases h
  line := fun _ _ => rfl
  lineKept := fun h => by cases h
  latchLength := .inr (by simp [written])
  latchPadding := fun j (h : 2 ≤ j) => by
    by_cases h9 : j < 9
    · have : j = 2 ∨ j = 3 ∨ j = 4 ∨ j = 5 ∨ j = 6 ∨ j = 7 ∨ j = 8 := by omega
      rcases this with rfl | rfl | rfl | rfl | rfl | rfl | rfl <;> rfl
    · simp only [outByte]
      rw [Vector.getElem?_eq_none (by omega)]
      rfl
  latched := fun _ =>
    show validBytes #v[0xD2, 0x80, 0, 0, 0, 0, 0, 0, 0] 2 = encodedBytes 1 (blockSlice [0xA5] 0) by decide

theorem witness_StepKeepsInvariant :
    (serving .write [0xA5] 0 [.ok]).Inv ∧ ∃ t, step (serving .write [0xA5] 0 [.ok]) = .next t :=
  ⟨inv_serving_write _, _, rfl⟩

theorem witness_StepKeepsInvariant_edge : (written [.ok]).Inv ∧ ∃ t, step (written [.ok]) = .next t :=
  ⟨inv_written _, _, rfl⟩

/-- F11's state: its trace is the request's beginning and the assert. -/
def midRequest (answers : List CallResult) : State :=
  { serving .write [0xA5] 0 answers with trace := [.callBegin 1 1, .cs .assert .ok] }

theorem witness_StepKeepsTraceFramed :
    (midRequest [.ok]).Inv ∧ (midRequest [.ok]).Framed ∧ ∃ t, step (midRequest [.ok]) = .next t :=
  ⟨{ inv_serving_write [.ok] with }, ⟨[], by simp, rfl, rfl⟩, _, rfl⟩

/-- The same after a finished request that failed in its assert (F6). -/
theorem witness_StepKeepsTraceFramed_edge :
    let before : Served := { req := [0x12, 0x34], c := 1, failedCall := some 0 }
    let s := { midRequest [.err] with trace := before.events true ++ (midRequest []).trace, result := .busError }
    s.Inv ∧ s.Framed ∧ ∃ t, step s = .next t := by
  refine ⟨{ inv_serving_write [.err] with }, ⟨[{ req := [0x12, 0x34], c := 1, failedCall := some 0 }], ?_, rfl, rfl⟩, _, rfl⟩
  intro v hv k hk
  obtain rfl := List.mem_singleton.1 hv
  obtain rfl := Option.some.inj hk
  decide

theorem witness_StepStopsOnlyOnBadInput :
    (serving .write [0xA5] 0 []).Inv ∧
    (let s := presenting .powerUp .atOnce (serving .write [0xA5] 0 [])
     s.Inv ∧ step s = .refused .resetInProgress) ∧
    (let s := presenting (.present (.payloadByte 0)) .atOnce (serving .write [0xA5] 0 [])
     s.Inv ∧ step s = .refused (.undecodable (.payloadNotListed 0))) :=
  ⟨inv_serving_write _, ⟨{ inv_serving_write [] with }, rfl⟩, ⟨{ inv_serving_write [] with }, rfl⟩⟩

theorem witness_ConfigurationIsFixed :
    (∃ t, exec .busWrite (serving .write [1] 0 [.ok]) = .next t) ∧ ∃ t, step (servingNoPin [1] 0 [.ok]) = .next t :=
  ⟨⟨_, rfl⟩, ⟨_, rfl⟩⟩

theorem not_takesReset_of_host_nil {s : State} (h : s.host = []) : ¬ s.TakesReset := by
  simp [State.TakesReset, State.hostReady, h]

/-- A mark raised, then cleared by the reset that the step takes. -/
theorem witness_FaultMarksAreSticky :
    let s := { presenting .powerUp .whenReturned State.reset with fault := { busyRequest := true } }
    ∃ t, step s = .next t ∧ s.fault.has .busyRequest = true ∧ t.fault.has .busyRequest = false ∧ s.TakesReset :=
  ⟨_, rfl, rfl, rfl, [], rfl⟩

theorem witness_MarksOnlyFromForbiddenInputs :
    let s := presenting (.present (.encoderPort 0 9 zeroLanes)) .whenReturned State.reset
    ∃ t, step s = .next t ∧ t.fault ≠ s.fault ∧ ¬ s.TakesReset :=
  ⟨_, rfl, by decide, fun ⟨_, h⟩ => by injection h with h; injection h with h; cases h⟩

theorem witness_MarksOnlyFromForbiddenInputs_edge :
    let s := presenting (.present (.request (.sendCommand 0x88))) .atOnce (serving .write [0xA5] 0 [])
    ∃ t, step s = .next t ∧ t.fault ≠ s.fault ∧ ¬ s.TakesReset :=
  ⟨_, rfl, by decide, fun ⟨_, h⟩ => by injection h with h; injection h with h; cases h⟩

theorem witness_RequestIsStable :
    (serving .write [0xA5] 0 [.ok]).phase ≠ .idle ∧ ∃ t, step (serving .write [0xA5] 0 [.ok]) = .next t :=
  ⟨by decide, _, rfl⟩

theorem witness_ResultWrittenOnlyAtEnd :
    let s := serving .deassert [0x88] 0 [.ok]
    ∃ t, step s = .next t ∧ t.result ≠ s.result ∧ ¬ s.TakesReset :=
  ⟨_, rfl, by decide, not_takesReset_of_host_nil rfl⟩

/-- One witness for each of the three calls. -/
theorem witness_BusErrorOnlyFromFailingCalls :
    (∃ t es, step (serving .assert [1] 0 [.err]) = .next t ∧ t.trace = [] ++ es ∧ .callEnd .busError ∈ es) ∧
    (∃ t es, step (serving .write [1] 0 [.err]) = .next t ∧ t.trace = [] ++ es ∧ .callEnd .busError ∈ es) ∧
    ∃ t es, step (serving .deassert [1] 0 [.err]) = .next t ∧ t.trace = [] ++ es ∧ .callEnd .busError ∈ es :=
  ⟨⟨_, _, rfl, rfl, by decide⟩, ⟨_, _, rfl, rfl, by decide⟩, ⟨_, _, rfl, rfl, by decide⟩⟩

theorem witness_TraceOnlyGrows :
    let s := serving .write [1] 0 [.ok]
    (∃ t, step s = .next t) ∧ ¬ s.TakesReset := ⟨⟨_, rfl⟩, not_takesReset_of_host_nil rfl⟩

theorem witness_LineWrittenOnlyByPinEvents :
    (∃ t, exec .csAssert (serving .assert [1] 0 [.ok]) = .next t ∧ t.cs ≠ (serving .assert [1] 0 [.ok]).cs) ∧
    ∃ t, exec .csDeassert (serving .deassert [1] 0 [.err]) = .next t ∧ t.cs ≠ (serving .deassert [1] 0 [.err]).cs :=
  ⟨⟨_, rfl, by decide⟩, ⟨_, rfl, by decide⟩⟩

theorem witness_NoPinCallWithoutChipSelect :
    let s := servingNoPin [1] 0 [.ok]
    s.cfg.hasCs = false ∧ ¬ s.TakesReset ∧ ∃ t, step s = .next t := ⟨rfl, not_takesReset_of_host_nil rfl, _, rfl⟩

theorem witness_CsfNeverEncodesIllegalLength :
    let s := serving .write [0xA5] 0 [.ok]
    s.Inv ∧ s.phase = .write ∧ ∃ t, exec .busWrite s = .next t := ⟨inv_serving_write _, rfl, _, rfl⟩

theorem witness_SendRunsToOk :
    let s := { State.reset with answers := [.ok, .ok, .ok, .err] }
    s.phase = .idle ∧ s.host = [] ∧
    s.answers = List.replicate (callCount s.cfg.hasCs ([0xA5] : List Byte).length) .ok ++ [.err] := by decide

theorem witness_SendRunsToOk_edge :
    let s := { State.resetWith { hasCs := false } with answers := [.ok, .ok] }
    s.phase = .idle ∧ s.host = [] ∧ s.answers =
      List.replicate (callCount s.cfg.hasCs ([1, 2, 3, 4, 5, 6, 7, 8, 9] : List Byte).length) .ok ++ [] := by decide

theorem witness_SendStopsAtFirstFailure :
    let s := { State.reset with answers := [.ok, .ok, .err] }
    s.phase = .idle ∧ s.host = [] ∧ 2 < callCount s.cfg.hasCs ([0xA5] : List Byte).length ∧
    s.answers = List.replicate 2 .ok ++ .err :: [] := by decide

theorem witness_SendStopsAtFirstFailure_edge :
    let s := { State.reset with answers := [.err] }
    s.phase = .idle ∧ s.host = [] ∧ 0 < callCount s.cfg.hasCs ([0xA5] : List Byte).length ∧
    s.answers = List.replicate 0 .ok ++ .err :: [] := by decide

theorem witness_SuccessfulSendCounts : ({} : Config).hasCs = true ∧ ({ hasCs := false } : Config).hasCs = false := by
  decide

theorem witness_StalledCallStaysForEver :
    let s := serving .write [0xA5] 0 []
    s.Inv ∧ s.phase ≠ .idle ∧ s.Quiet ∧ s.answers = [] :=
  ⟨inv_serving_write _, by decide, quiet_of_host_nil rfl, rfl⟩

theorem witness_RequestEndsIfCollaboratorsRespond :
    let s := serving .write [0xA5] 0 [.ok, .err, .ok]
    s.Inv ∧ s.phase ≠ .idle ∧ s.host = [] ∧ s.CollabResponds (callCount s.cfg.hasCs s.req.length) :=
  ⟨inv_serving_write _, by decide, rfl, Nat.le_refl 3⟩

theorem witness_FailedWriteDeliversSomeFirstPart : ([0x89] : List Byte) <+: [0x89, 0x4D, 0x00] := ⟨[0x4D, 0x00], rfl⟩

end Sys2Proof.Tests
end

section
/-! PROOFS of the state's own statements (10_state.md): what each operation and each step leaves unchanged, and the
invariant of CSF's state. -/

namespace Sys2Proof.Machine

/-! ### Fields that the shared operations leave unchanged -/

section Fields

variable (s : State)

/-- Presenting ENC's inputs writes the ports and the marks only. -/
theorem presentPorts_writes (p : EncPorts) :
    presentPorts p s = { s with enc := p, fault := (presentPorts p s).fault } := by
  rcases presentPorts_cases p s with ⟨_, h⟩ | ⟨_, h⟩ <;> rw [h]

@[simp] theorem presentPorts_cfg (p : EncPorts) : (presentPorts p s).cfg = s.cfg := by rw [presentPorts_writes]
@[simp] theorem presentPorts_phase (p : EncPorts) : (presentPorts p s).phase = s.phase := by rw [presentPorts_writes]
@[simp] theorem presentPorts_req (p : EncPorts) : (presentPorts p s).req = s.req := by rw [presentPorts_writes]
@[simp] theorem presentPorts_c (p : EncPorts) : (presentPorts p s).c = s.c := by rw [presentPorts_writes]
@[simp] theorem presentPorts_nblk (p : EncPorts) : (presentPorts p s).nblk = s.nblk := by rw [presentPorts_writes]
@[simp] theorem presentPorts_cs (p : EncPorts) : (presentPorts p s).cs = s.cs := by rw [presentPorts_writes]
@[simp] theorem presentPorts_result (p : EncPorts) : (presentPorts p s).result = s.result := by rw [presentPorts_writes]
@[simp] theorem presentPorts_trace (p : EncPorts) : (presentPorts p s).trace = s.trace := by rw [presentPorts_writes]

/-- The advance counts the block and writes the phase, the result and the trace only. -/
theorem advance_writes : advance s = { s with
    b := s.b + 1, phase := (advance s).phase, result := (advance s).result, trace := (advance s).trace } := by
  rcases advance_cases s with ⟨_, h⟩ | ⟨_, h⟩ <;> rw [h]

@[simp] theorem advance_cfg : (advance s).cfg = s.cfg := by rw [advance_writes]
@[simp] theorem advance_enc : (advance s).enc = s.enc := by rw [advance_writes]
@[simp] theorem advance_req : (advance s).req = s.req := by rw [advance_writes]
@[simp] theorem advance_c : (advance s).c = s.c := by rw [advance_writes]
@[simp] theorem advance_nblk : (advance s).nblk = s.nblk := by rw [advance_writes]
@[simp] theorem advance_b : (advance s).b = s.b + 1 := by rw [advance_writes]
@[simp] theorem advance_blkQ : (advance s).blkQ = s.blkQ := by rw [advance_writes]
@[simp] theorem advance_blkM : (advance s).blkM = s.blkM := by rw [advance_writes]
@[simp] theorem advance_cs : (advance s).cs = s.cs := by rw [advance_writes]
@[simp] theorem advance_fault : (advance s).fault = s.fault := by rw [advance_writes]
@[simp] theorem advance_host : (advance s).host = s.host := by rw [advance_writes]
@[simp] theorem advance_answers : (advance s).answers = s.answers := by rw [advance_writes]

end Fields

theorem accept_cs (bytes : List Byte) (isCommand : Bool) (s : State) : (accept bytes isCommand s).cs = s.cs := by
  rcases accept_cases bytes isCommand s with ⟨_, h⟩ | ⟨_, _, h⟩ | ⟨_, _, h⟩ <;> rw [h]

/-- The advance logs nothing and keeps the result, or it ends the request with the result it logs. -/
theorem advance_trace_cases (s : State) :
    ((advance s).trace = s.trace ∧ (advance s).result = s.result) ∨
    ((advance s).trace = s.trace ++ [.callEnd .ok] ∧ (advance s).result = .ok ∧ (advance s).phase = .idle) := by
  rcases advance_cases s with ⟨_, h⟩ | ⟨_, h⟩
  · exact .inl (by simp [h])
  · exact .inr (by simp [h])

/-! ### What an operation leaves unchanged -/

/-- What one collaborator call of CSF leaves unchanged from `s` to `t`, and how far it moves the rest: the part of the
frame that CS_ASSERT, BUS_WRITE and CS_DEASSERT share (10_state.md R26, R28, R34). -/
structure State.CallFrame (s t : State) : Prop where
  cfg : t.cfg = s.cfg
  req : t.req = s.req
  c : t.c = s.c
  nblk : t.nblk = s.nblk
  fault : t.fault = s.fault
  host : t.host = s.host
  answers : t.answers = s.answers.tail
  trace : ∃ es : List Event, t.trace = s.trace ++ es ∧ es.length ≤ 2 ∧ (s.answers = [] ↔ es = [])
  result : t.result ≠ s.result → t.phase = .idle ∧ t.trace.getLast? = some (.callEnd t.result)

/-- A call that returned and logged its event, and after which CSF advances. -/
theorem State.CallFrame.of_advance {s u : State} {r : CallResult} {e : Event} (ha : s.answers = r :: u.answers)
    (cfg : u.cfg = s.cfg) (req : u.req = s.req) (c : u.c = s.c) (nblk : u.nblk = s.nblk) (fault : u.fault = s.fault)
    (host : u.host = s.host) (result : u.result = s.result) (trace : u.trace = s.trace ++ [e]) :
    s.CallFrame (advance u) := by
  have htail : (advance u).answers = s.answers.tail := by simp [ha]
  rcases advance_trace_cases u with ⟨ht, hr⟩ | ⟨ht, hr, hp⟩
  · exact ⟨by simpa, by simpa, by simpa, by simpa, by simpa, by simpa, htail,
      ⟨[e], by rw [ht, trace], by simp, by simp [ha]⟩, fun hne => absurd (hr.trans result) hne⟩
  · exact ⟨by simpa, by simpa, by simpa, by simpa, by simpa, by simpa, htail,
      ⟨[e, .callEnd .ok], by simp [ht, trace], by simp, by simp [ha]⟩, fun _ => ⟨hp, by simp [ht, hr]⟩⟩

theorem csAssert_callFrame (s : State) : s.CallFrame (collaboratorCall csAssertReturned s) := by
  rcases csAssert_cases s with ⟨ha, h⟩ | ⟨rest, ha, h⟩ | ⟨rest, ha, h⟩ <;> rw [h]
  · exact ⟨rfl, rfl, rfl, rfl, rfl, rfl, by simp [ha], ⟨[], by simp [ha]⟩, fun hne => absurd rfl hne⟩
  · exact ⟨rfl, rfl, rfl, rfl, rfl, rfl, by simp [ha], ⟨_, rfl, by simp, by simp [ha]⟩, fun hne => absurd rfl hne⟩
  · exact ⟨rfl, rfl, rfl, rfl, rfl, rfl, by simp [ha], ⟨_, rfl, by simp, by simp [ha]⟩, fun _ => ⟨rfl, by simp⟩⟩

theorem busWrite_callFrame (s : State) : s.CallFrame (collaboratorCall busWriteReturned (latchBlock s)) := by
  rcases busWrite_cases s with ⟨ha, h⟩ | ⟨rest, ha, _, h⟩ | ⟨rest, ha, _, h⟩ | ⟨rest, ha, h⟩ <;> rw [h]
  · exact ⟨rfl, rfl, rfl, rfl, rfl, rfl, by simp [ha], ⟨[], by simp [ha]⟩, fun hne => absurd rfl hne⟩
  · exact ⟨rfl, rfl, rfl, rfl, rfl, rfl, by simp [ha], ⟨_, rfl, by simp, by simp [ha]⟩, fun hne => absurd rfl hne⟩
  · exact .of_advance ha rfl rfl rfl rfl rfl rfl rfl rfl
  · exact ⟨rfl, rfl, rfl, rfl, rfl, rfl, by simp [ha], ⟨_, rfl, by simp, by simp [ha]⟩, fun _ => ⟨rfl, by simp⟩⟩

theorem csDeassert_callFrame (s : State) : s.CallFrame (collaboratorCall csDeassertReturned s) := by
  rcases csDeassert_cases s with ⟨ha, h⟩ | ⟨rest, ha, h⟩ | ⟨rest, ha, h⟩ <;> rw [h]
  · exact ⟨rfl, rfl, rfl, rfl, rfl, rfl, by simp [ha], ⟨[], by simp [ha]⟩, fun hne => absurd rfl hne⟩
  · exact .of_advance ha rfl rfl rfl rfl rfl rfl rfl rfl
  · exact ⟨rfl, rfl, rfl, rfl, rfl, rfl, by simp [ha], ⟨_, rfl, by simp, by simp [ha]⟩, fun _ => ⟨rfl, by simp⟩⟩

/-- CS_ASSERT leaves ENC's ports and the latch, and the block index. -/
theorem csAssert_keepsLatch (s : State) :
    let t := collaboratorCall csAssertReturned s
    (t.enc = s.enc ∧ t.blkQ = s.blkQ ∧ t.blkM = s.blkM) ∧ t.b = s.b := by
  rcases csAssert_cases s with ⟨_, h⟩ | ⟨_, _, h⟩ | ⟨_, _, h⟩ <;> simp [h]

/-- CS_DEASSERT leaves ENC's ports and the latch. -/
theorem csDeassert_keepsLatch (s : State) :
    let t := collaboratorCall csDeassertReturned s
    t.enc = s.enc ∧ t.blkQ = s.blkQ ∧ t.blkM = s.blkM := by
  rcases csDeassert_cases s with ⟨_, h⟩ | ⟨_, _, h⟩ | ⟨_, _, h⟩ <;> simp [h]

theorem busWrite_cs (s : State) : (collaboratorCall busWriteReturned (latchBlock s)).cs = s.cs := by
  rcases busWrite_cases s with ⟨_, h⟩ | ⟨_, _, _, h⟩ | ⟨_, _, _, h⟩ | ⟨_, _, h⟩ <;> simp [h]

/-- What every operation keeps from `s` to `t`, whatever it does: the configuration, raised marks, the request in
progress, the past of the trace, and the result unless a request ends (10_state.md R26, R28, R30, R33, R34). -/
structure State.Keeps (s t : State) : Prop where
  cfg : t.cfg = s.cfg
  marks : ∀ mark, s.fault.has mark = true → t.fault.has mark = true
  request : s.phase ≠ .idle → t.req = s.req ∧ t.c = s.c ∧ t.nblk = s.nblk
  trace : s.trace <+: t.trace
  result : t.result ≠ s.result → t.phase = .idle ∧ t.trace.getLast? = some (.callEnd t.result)

theorem State.Keeps.refl (s : State) : s.Keeps s :=
  ⟨rfl, fun _ h => h, fun _ => ⟨rfl, rfl, rfl⟩, List.prefix_rfl, fun hne => absurd rfl hne⟩

/-- Taking an input off the host's list is no part of what an operation keeps. -/
theorem State.Keeps.of_hostTaken {s t : State} {rest : List HostInput} (h : ({ s with host := rest } : State).Keeps t) :
    s.Keeps t := ⟨h.cfg, h.marks, h.request, h.trace, h.result⟩

theorem State.CallFrame.keeps {s t : State} (h : s.CallFrame t) : s.Keeps t where
  cfg := h.cfg
  marks := fun _ hm => h.fault ▸ hm
  request := fun _ => ⟨h.req, h.c, h.nblk⟩
  trace := h.trace.elim fun es hes => ⟨es, hes.1.symm⟩
  result := h.result

theorem presentPorts_keeps (p : EncPorts) (s : State) : s.Keeps (presentPorts p s) where
  cfg := presentPorts_cfg s p
  marks := fun mark hm => by
    rcases presentPorts_cases p s with ⟨_, h⟩ | ⟨_, h⟩ <;> rw [h]
    · exact hm
    · exact FaultMarks.has_add_of_has _ hm
  request := fun _ => by simp
  trace := by simp
  result := fun hne => absurd (presentPorts_result s p) hne

theorem accept_keeps (bytes : List Byte) (isCommand : Bool) (s : State) : s.Keeps (accept bytes isCommand s) := by
  rcases accept_cases bytes isCommand s with ⟨_, h⟩ | ⟨hp, _, h⟩ | ⟨hp, _, h⟩ <;> rw [h]
  · exact ⟨rfl, fun _ hm => FaultMarks.has_add_of_has _ hm, fun _ => ⟨rfl, rfl, rfl⟩, List.prefix_rfl,
      fun hne => absurd rfl hne⟩
  · exact ⟨rfl, fun _ hm => hm, fun hne => absurd hp hne, List.prefix_append _ _, fun _ => ⟨hp, by simp⟩⟩
  · exact ⟨rfl, fun _ hm => hm, fun hne => absurd hp hne, List.prefix_append _ _, fun hne => absurd rfl hne⟩

theorem exec_keeps {i : Instr} {s t : State} (h : exec i s = .next t) : s.Keeps t := by
  rcases exec_cases h with ⟨p, _, rfl⟩ | ⟨bytes, isCommand, _, _, rfl⟩ | ⟨_, _, _, rfl⟩ | ⟨_, _, rfl⟩ | ⟨_, _, _, rfl⟩
  · exact presentPorts_keeps p s
  · exact accept_keeps bytes isCommand s
  · exact (csAssert_callFrame s).keeps
  · exact (busWrite_callFrame s).keeps
  · exact (csDeassert_callFrame s).keeps

/-! ### What a step leaves unchanged -/

/-- A step that takes a reset is one from IDLE to the state after power-up. -/
theorem step_of_takesReset {s t : State} (hr : s.TakesReset) (h : step s = .next t) :
    s.phase = .idle ∧ ∃ rest, t = State.powerUp { s with host := rest } := by
  obtain ⟨rest, hr⟩ := hr
  rw [step_powerUp hr] at h
  unfold applyPowerUp at h
  split at h
  · injection h with h
    exact ⟨‹_›, rest, h.symm⟩
  · cases h

/-- Without a reset a step waits, lets the host wait, or runs one operation. -/
theorem step_of_not_takesReset {s t : State} (hr : ¬ s.TakesReset) (h : step s = .next t) :
    t = s ∨ (∃ rest, t = { s with host := rest }) ∨ (∃ i, exec i s = .next t) ∨
      ∃ i rest, exec i { s with host := rest } = .next t := by
  rcases step_cases h with ⟨_, rest, i, _, _, h⟩ | ⟨_, rest, _, h⟩ | ⟨rest, hready, _, _⟩ | ⟨_, _, h⟩ |
    ⟨_, ⟨_, h⟩ | ⟨_, h⟩ | ⟨_, h⟩⟩
  · exact .inr (.inr (.inr ⟨i, rest, h⟩))
  · exact .inr (.inl ⟨rest, h⟩)
  · exact absurd ⟨rest, hready⟩ hr
  · exact .inl h
  all_goals exact .inr (.inr (.inl ⟨_, h⟩))

theorem step_keeps {s t : State} (hr : ¬ s.TakesReset) (h : step s = .next t) : s.Keeps t := by
  rcases step_of_not_takesReset hr h with rfl | ⟨rest, rfl⟩ | ⟨i, h⟩ | ⟨i, rest, h⟩
  · exact .refl t
  · exact .of_hostTaken (.refl _)
  · exact exec_keeps h
  · exact .of_hostTaken (exec_keeps h)

/-! ### The encoder's loop -/

theorem outByte_zeroBlock (j : Nat) : outByte (Vector.replicate 9 0) j = 0 := by
  unfold outByte
  rw [Vector.getElem?_replicate]
  split <;> rfl

theorem outByte_orInto_of_ne {q : Block} {i j : Nat} (h : i ≠ j) (v : Byte) :
    outByte (orInto q i v) j = outByte q j := by
  simp [outByte, orInto, h]

/-- The loop writes no byte beyond the one after its last word. -/
theorem outByte_packWords_of_lt (c : Bit) (d : Lanes) {n j : Nat} (h : n < j) : outByte (packWords c d n) j = 0 := by
  induction n with
  | zero => exact outByte_zeroBlock j
  | succ s ih =>
    rw [packWords, packWord, outByte_orInto_of_ne (by omega), outByte_orInto_of_ne (by omega),
      outByte_orInto_of_ne (by omega), ih (by omega)]

/-- The loop reads the first `n` lanes only (40_encoder.md R92). -/
theorem packWords_congr (c : Bit) {d e : Lanes} {n : Nat} (h : ∀ k < n, lane d k = lane e k) :
    packWords c d n = packWords c e n := by
  induction n with
  | zero => rfl
  | succ s ih => rw [packWords, packWords, ih fun k hk => h k (by omega), packWord, packWord, h s (by omega)]

/-- A loaded lane holds its byte of the request. -/
theorem lane_loadLanes (req : List Byte) (b : Nat) (d : Lanes) {n k : Nat} (hk : k < n) (hn : n ≤ 8) :
    lane (loadLanes req b d n) k = req[8 * b + k]?.getD 0 := by
  induction n with
  | zero => omega
  | succ i ih =>
    by_cases hik : i = k
    · subst hik
      simp [lane, loadLanes, show i < 8 by omega]
    · have hlane : lane (loadLanes req b d (i + 1)) k = lane (loadLanes req b d i) k := by
        simp [lane, loadLanes, hik]
      rw [hlane, ih (by omega) (by omega)]

/-! ### The latch -/

/-- The latch's length after a block with bytes is latched. -/
theorem latchBlock_blkM_eq {s : State} (h : 8 * s.b < s.req.length) :
    (latchBlock s).blkM = blockLen s.req.length s.b + 1 := by
  have hpos := blockLen_pos h
  rw [latchBlock_blkM, encodeWords_length _ _ (blockLen_le_eight _ _), if_neg (by omega)]

/-- The latched bytes are the block's encoding, whatever the unused lanes were driven with (10_state.md R31). -/
theorem validBytes_latchBlock (s : State) :
    validBytes (latchBlock s).blkQ (latchBlock s).blkM = encodedBytes s.c (blockSlice s.req s.b) := by
  have hlanes : ∀ k < blockLen s.req.length s.b,
      lane (loadLanes s.req s.b s.enc.d (blockLen s.req.length s.b)) k =
        lane (loadLanes (blockSlice s.req s.b) 0 zeroLanes (blockLen s.req.length s.b)) k := by
    intro k hk
    have hle := blockLen_le_eight s.req.length s.b
    rw [lane_loadLanes _ _ _ hk hle, lane_loadLanes _ _ _ hk hle]
    simp [blockSlice, show k < 8 by omega]
  rw [latchBlock_blkQ, latchBlock_blkM, packWords_congr s.c hlanes, encodedBytes, length_blockSlice]
  rfl

/-! ### The invariant of CSF's state -/

@[simp] theorem blockCount_zero : blockCount 0 = 0 := blockCount_eq_zero.mpr rfl

/-- The part of the invariant that does not speak of the phase. -/
structure State.BaseInv (s : State) : Prop where
  blocks : s.nblk = blockCount s.req.length
  index : s.b ≤ s.nblk
  lineKept : s.cfg.hasCs = false → s.cs = s.cfg.csInit
  latchLength : s.blkM = 0 ∨ (2 ≤ s.blkM ∧ s.blkM ≤ 9)
  latchPadding : ∀ j, s.blkM ≤ j → outByte s.blkQ j = 0

theorem State.Inv.base {s : State} (h : s.Inv) : s.BaseInv :=
  ⟨h.blocks, h.index, h.lineKept, h.latchLength, h.latchPadding⟩

/-- In IDLE the invariant asks nothing more. -/
theorem State.BaseInv.inv_of_idle {s : State} (h : s.BaseInv) (hp : s.phase = .idle) : s.Inv where
  blocks := h.blocks
  index := h.index
  busy := fun hne => absurd hp hne
  noPin := fun _ => .inl hp
  line := fun _ hb => by simp [hp] at hb
  lineKept := h.lineKept
  latchLength := h.latchLength
  latchPadding := h.latchPadding
  latched := fun hd => by simp [hp] at hd

/-- At the start of a block the invariant asks only that there is one to serve. -/
theorem State.BaseInv.inv_of_startPhase {s : State} (h : s.BaseInv) (hp : s.phase = startPhase s.cfg)
    (hb : s.b < s.nblk) : s.Inv where
  blocks := h.blocks
  index := h.index
  busy := fun _ => hb
  noPin := fun hc => .inr (by simp [hp, startPhase, hc])
  line := fun hc hb => by simp [hp, startPhase, hc] at hb
  lineKept := h.lineKept
  latchLength := h.latchLength
  latchPadding := h.latchPadding
  latched := fun hd => by unfold startPhase at hp; split at hp <;> simp [hp] at hd

/-- The invariant speaks of no other field. -/
theorem State.Inv.of_fields {s t : State} (h : s.Inv) (cfg : t.cfg = s.cfg) (phase : t.phase = s.phase)
    (req : t.req = s.req) (c : t.c = s.c) (nblk : t.nblk = s.nblk) (b : t.b = s.b) (blkQ : t.blkQ = s.blkQ)
    (blkM : t.blkM = s.blkM) (cs : t.cs = s.cs) : t.Inv := by
  obtain ⟨hblocks, hindex, hbusy, hnoPin, hline, hlineKept, hlength, hpadding, hlatched⟩ := h
  constructor <;> simp only [cfg, phase, req, c, nblk, b, blkQ, blkM, cs] <;> assumption

theorem advance_inv {s : State} (h : s.BaseInv) (hb : s.b < s.nblk) : (advance s).Inv := by
  have hbase : (advance s).BaseInv := ⟨by simpa using h.blocks, by simpa using hb, by simpa using h.lineKept,
    by simpa using h.latchLength, by simpa using h.latchPadding⟩
  rcases advance_cases s with ⟨hmore, ha⟩ | ⟨_, ha⟩
  · exact hbase.inv_of_startPhase (by simp [ha]) (by simpa using hmore)
  · exact hbase.inv_of_idle (by simp [ha])

theorem presentPorts_inv {s : State} (h : s.Inv) (p : EncPorts) : (presentPorts p s).Inv := by
  rcases presentPorts_cases p s with ⟨_, ht⟩ | ⟨_, ht⟩ <;> rw [ht]
  all_goals exact h.of_fields rfl rfl rfl rfl rfl rfl rfl rfl rfl

theorem accept_inv {s : State} (h : s.Inv) (bytes : List Byte) (isCommand : Bool) :
    (accept bytes isCommand s).Inv := by
  rcases accept_cases bytes isCommand s with ⟨_, ht⟩ | ⟨hp, _, ht⟩ | ⟨_, hb, ht⟩ <;> rw [ht]
  · exact h.of_fields rfl rfl rfl rfl rfl rfl rfl rfl rfl
  · exact State.BaseInv.inv_of_idle ⟨blockCount_zero.symm, Nat.le_refl 0, h.lineKept, h.latchLength, h.latchPadding⟩ hp
  · have hpos : 0 < blockCount bytes.length := lt_blockCount.mpr (List.length_pos_iff.mpr hb)
    exact State.BaseInv.inv_of_startPhase ⟨rfl, Nat.zero_le _, h.lineKept, h.latchLength, h.latchPadding⟩ rfl hpos

theorem csAssert_inv {s : State} (h : s.Inv) (hp : s.phase = .assert) (hc : s.cfg.hasCs = true) :
    (collaboratorCall csAssertReturned s).Inv := by
  have hb : s.b < s.nblk := h.busy (by simp [hp])
  have pinless {P : Prop} (hn : s.cfg.hasCs = false) : P := by simp [hc] at hn
  rcases csAssert_cases s with ⟨_, ht⟩ | ⟨_, _, ht⟩ | ⟨_, _, ht⟩ <;> rw [ht]
  · exact h
  · exact ⟨h.blocks, h.index, fun _ => hb, fun _ => .inr rfl, fun _ _ => rfl, pinless, h.latchLength, h.latchPadding,
      nofun⟩
  · exact State.BaseInv.inv_of_idle ⟨h.blocks, h.index, pinless, h.latchLength, h.latchPadding⟩ rfl

/-- A latched block with bytes keeps the invariant: 2 to 9 bytes, and 0 beyond (20_memory.md R46). -/
theorem latchBlock_base {s : State} (h : s.BaseInv) (hb : s.b < s.nblk) : (latchBlock s).BaseInv := by
  have hbyte : 8 * s.b < s.req.length := lt_blockCount.mp (h.blocks ▸ hb)
  have hpos := blockLen_pos hbyte
  have hle := blockLen_le_eight s.req.length s.b
  have hM := latchBlock_blkM_eq hbyte
  refine ⟨h.blocks, h.index, h.lineKept, .inr (by omega), fun j hj => ?_⟩
  rw [latchBlock_blkQ]
  exact outByte_packWords_of_lt _ _ (by omega)

theorem busWrite_inv {s : State} (h : s.Inv) (hp : s.phase = .write) :
    (collaboratorCall busWriteReturned (latchBlock s)).Inv := by
  have hb : s.b < s.nblk := h.busy (by simp [hp])
  obtain ⟨blocks, index, lineKept, latchLength, latchPadding⟩ := latchBlock_base h.base hb
  rcases busWrite_cases s with ⟨_, ht⟩ | ⟨_, _, hc, ht⟩ | ⟨_, _, _, ht⟩ | ⟨_, _, ht⟩ <;> rw [ht]
  · exact ⟨blocks, index, h.busy, h.noPin, h.line, lineKept, latchLength, latchPadding,
      fun hd => by simp [hp] at hd⟩
  · exact ⟨blocks, index, fun _ => hb, fun hn => by simp [hc] at hn, fun _ _ => h.line hc (.inl hp), lineKept,
      latchLength, latchPadding, fun _ => validBytes_latchBlock s⟩
  · exact advance_inv ⟨blocks, index, lineKept, latchLength, latchPadding⟩ hb
  · exact State.BaseInv.inv_of_idle ⟨blocks, index, lineKept, latchLength, latchPadding⟩ rfl

theorem csDeassert_inv {s : State} (h : s.Inv) (hp : s.phase = .deassert) (hc : s.cfg.hasCs = true) :
    (collaboratorCall csDeassertReturned s).Inv := by
  have hb : s.b < s.nblk := h.busy (by simp [hp])
  have pinless {P : Prop} (hn : s.cfg.hasCs = false) : P := by simp [hc] at hn
  rcases csDeassert_cases s with ⟨_, ht⟩ | ⟨_, _, ht⟩ | ⟨_, _, ht⟩ <;> rw [ht]
  · exact h
  · exact advance_inv ⟨h.blocks, h.index, pinless, h.latchLength, h.latchPadding⟩ hb
  · exact State.BaseInv.inv_of_idle ⟨h.blocks, h.index, pinless, h.latchLength, h.latchPadding⟩ rfl

theorem exec_inv {i : Instr} {s t : State} (hs : s.Inv) (h : exec i s = .next t) : t.Inv := by
  rcases exec_cases h with ⟨p, _, rfl⟩ | ⟨bytes, isCommand, _, _, rfl⟩ | ⟨_, hp, hc, rfl⟩ | ⟨_, hp, rfl⟩ |
    ⟨_, hp, hc, rfl⟩
  · exact presentPorts_inv hs p
  · exact accept_inv hs bytes isCommand
  · exact csAssert_inv hs hp hc
  · exact busWrite_inv hs hp
  · exact csDeassert_inv hs hp hc

theorem resetWith_inv (cfg : Config) : (State.resetWith cfg).Inv :=
  State.BaseInv.inv_of_idle
    ⟨blockCount_zero.symm, Nat.le_refl 0, fun _ => rfl, .inl rfl, fun j _ => outByte_zeroBlock j⟩ rfl

/-- Power-up leaves CSF's elements as reset does (70_reset_and_hazards.md R150). -/
theorem powerUp_inv (s : State) : s.powerUp.Inv :=
  (resetWith_inv s.cfg).of_fields rfl rfl rfl rfl rfl rfl rfl rfl rfl

theorem step_inv {s t : State} (hs : s.Inv) (h : step s = .next t) : t.Inv := by
  have taken (rest : List HostInput) : ({ s with host := rest } : State).Inv :=
    hs.of_fields rfl rfl rfl rfl rfl rfl rfl rfl rfl
  by_cases hr : s.TakesReset
  · obtain ⟨_, rest, rfl⟩ := step_of_takesReset hr h
    exact powerUp_inv _
  · rcases step_of_not_takesReset hr h with rfl | ⟨rest, rfl⟩ | ⟨i, h⟩ | ⟨i, rest, h⟩
    · exact hs
    · exact taken rest
    · exact exec_inv hs h
    · exact exec_inv (taken rest) h

/-! ### The statements -/

/-- Settles O38: what a step may do is a reset, a wait or one operation, and each keeps the invariant. -/
theorem stepKeepsInvariant : Obligations.StepKeepsInvariant :=
  fun _ _ hs h => step_inv hs h

/-- Settles O31: the frame the three events share, and what each of them leaves besides. -/
theorem busEventFrame : Obligations.BusEventFrame := by
  intro i s t hi h
  obtain ⟨hframe, hlatch, hcs, hb⟩ : s.CallFrame t ∧
      (i ≠ .busWrite → t.enc = s.enc ∧ t.blkQ = s.blkQ ∧ t.blkM = s.blkM) ∧ (i = .busWrite → t.cs = s.cs) ∧
      (i = .csAssert → t.b = s.b) := by
    rcases hi with rfl | rfl | rfl
    · obtain ⟨_, _, rfl⟩ := pinEvent_next (show pinEvent .assert csAssertReturned s = .next t from h)
      obtain ⟨hlatch, hb⟩ := csAssert_keepsLatch s
      exact ⟨csAssert_callFrame s, fun _ => hlatch, nofun, fun _ => hb⟩
    · obtain ⟨_, rfl⟩ := execBusWrite_next (show execBusWrite s = .next t from h)
      exact ⟨busWrite_callFrame s, fun hne => absurd rfl hne, fun _ => busWrite_cs s, nofun⟩
    · obtain ⟨_, _, rfl⟩ := pinEvent_next (show pinEvent .deassert csDeassertReturned s = .next t from h)
      exact ⟨csDeassert_callFrame s, fun _ => csDeassert_keepsLatch s, nofun, nofun⟩
  exact ⟨hframe.cfg, hframe.req, hframe.c, hframe.nblk, hframe.fault, hframe.host, hframe.answers, hlatch, hcs, hb,
    hframe.trace⟩

/-- Settles O41: every operation keeps it, and so does a reset. -/
theorem configurationIsFixed : Obligations.ConfigurationIsFixed := by
  refine ⟨fun i s t h => (exec_keeps h).cfg, fun s t h => ?_⟩
  by_cases hr : s.TakesReset
  · obtain ⟨_, rest, rfl⟩ := step_of_takesReset hr h
    rfl
  · exact (step_keeps hr h).cfg

/-- Settles O42: without a reset a raised mark stays raised, and power-up clears all marks. -/
theorem faultMarksAreSticky : Obligations.FaultMarksAreSticky := by
  refine ⟨fun s t mark h hraised hcleared => ?_, fun s t hr h => ?_⟩
  · by_contra hr
    have hkept := (step_keeps hr h).marks mark hraised
    simp [hcleared] at hkept
  · obtain ⟨_, rest, rfl⟩ := step_of_takesReset hr h
    rfl

/-- Settles O44: a busy step takes no reset, and every other step keeps the request in progress. -/
theorem requestIsStable : Obligations.RequestIsStable := by
  intro s t hbusy h
  have hr : ¬ s.TakesReset := fun hr => hbusy (step_of_takesReset hr h).1
  exact (step_keeps hr h).request hbusy

/-- Settles O45: part of what every step but a reset keeps. -/
theorem resultWrittenOnlyAtEnd : Obligations.ResultWrittenOnlyAtEnd :=
  fun _ _ h hne hr => (step_keeps hr h).result hne

/-- Settles O47: part of what every step but a reset keeps. -/
theorem traceOnlyGrows : Obligations.TraceOnlyGrows :=
  fun _ _ h hr => (step_keeps hr h).trace

/-- Settles O48: of the five things an operation can be, only the two pin events write the line. -/
theorem lineWrittenOnlyByPinEvents : Obligations.LineWrittenOnlyByPinEvents := by
  intro i s t h hne
  rcases exec_cases h with ⟨p, _, rfl⟩ | ⟨bytes, isCommand, _, _, rfl⟩ | ⟨hi, _, hc, rfl⟩ | ⟨_, _, rfl⟩ |
    ⟨hi, _, hc, rfl⟩
  · exact absurd (presentPorts_cs s p) hne
  · exact absurd (accept_cs bytes isCommand s) hne
  · refine ⟨hc, .inl ⟨hi, ?_⟩⟩
    rcases csAssert_cases s with ⟨_, ht⟩ | ⟨_, _, ht⟩ | ⟨_, _, ht⟩
    · exact absurd (congrArg State.cs ht) hne
    · exact .inl (by rw [ht])
    · exact .inr (by simp [ht])
  · exact absurd (busWrite_cs s) hne
  · refine ⟨hc, .inr ⟨hi, ?_⟩⟩
    rcases csDeassert_cases s with ⟨_, ht⟩ | ⟨_, _, ht⟩ | ⟨_, _, ht⟩
    · exact absurd (congrArg State.cs ht) hne
    · exact .inl (by simp [ht])
    · exact .inr (by simp [ht])

/-- Settles O32: the input is ready, so the step takes it and runs what it decodes to. -/
theorem stepRunsPresentedOperation : Obligations.StepRunsPresentedOperation := by
  intro s f a rest i hs ready hd
  have hform : decodeForm f = .ok i := hd
  rw [step_present (hostReady_cons hs ready), hform]

/-- Settles O33: nothing of the host's is ready, so the phase says what runs. -/
theorem stepRunsNextBusEvent : Obligations.StepRunsNextBusEvent := by
  intro s hq
  have hcall (hp : s.phase ≠ .idle) := step_call (hostReady_quiet hq hp)
  refine ⟨fun hp => ?_, fun hp => ?_, fun hp => ?_⟩ <;> rw [hcall (by simp [hp]), hp]

/-- Settles O36: the values of 10_state.md R35, read off the reset state. -/
theorem resetValues : Obligations.ResetValues :=
  fun _ => ⟨rfl, rfl, rfl, rfl, rfl, outByte_zeroBlock, rfl, rfl, rfl, rfl, rfl⟩

/-- Settles O37: the reset state is IDLE with no request behind it. -/
theorem resetMeetsInvariant : Obligations.ResetMeetsInvariant :=
  fun cfg => ⟨resetWith_inv cfg, [], by simp, rfl, rfl⟩

end Sys2Proof.Machine
end

section
/-! PROOFS of the statement about what a bus write delivers (20_memory.md R47). -/

namespace Sys2Proof.Machine

variable (draw : Nat → Nat) (k : Nat) (bytes : List Byte)

@[simp] theorem deliveredBytes_okWrite : deliveredBytes draw k [.write bytes .ok] = bytes := by
  simp [deliveredBytes]

@[simp] theorem deliveredBytes_errWrite : deliveredBytes draw k [.write bytes .err] = bytes.take (draw k) := by
  simp [deliveredBytes]

/-- Settles O57: a failed write delivers the first `draw k` bytes, and the draw of a first part's own length gives it. -/
theorem failedWriteDeliversSomeFirstPart : Obligations.FailedWriteDeliversSomeFirstPart := by
  intro bytes k
  refine ⟨fun draw => deliveredBytes_okWrite draw k bytes, fun draw => ?_, fun part hpart => ?_⟩
  · rw [deliveredBytes_errWrite]
    exact List.take_prefix _ _
  · refine ⟨fun _ => part.length, ?_⟩
    rw [deliveredBytes_errWrite]
    exact (List.prefix_iff_eq_take.mp hpart).symm

end Sys2Proof.Machine
end

section
/-! PROOFS of the encodings' statements (30_encoding.md): decoder and encoder undo each other, format by format, and the
operations of ENC and the wire words that the encodings name. -/

namespace Sys2Proof

/-! ### ENC's ports -/

theorem wellFormed_encode {c : Bit} {n : BitVec 4} {d : Lanes} :
    (Instr.encode c n d).WellFormed ↔ 1 ≤ n.toNat ∧ n.toNat ≤ 8 := by
  simp [Instr.WellFormed, Instr.illFormed]

theorem wellFormed_encodeIllegal {c : Bit} {n : BitVec 4} {d : Lanes} :
    (Instr.encodeIllegal c n d).WellFormed ↔ 9 ≤ n.toNat := by
  simp [Instr.WellFormed, Instr.illFormed]

theorem decodePorts_zero (c : Bit) (d : Lanes) : decodePorts c 0 d = .encodeEmpty c d := rfl

theorem decodePorts_encode (c : Bit) {n : BitVec 4} (d : Lanes) (h1 : 1 ≤ n.toNat) (h8 : n.toNat ≤ 8) :
    decodePorts c n d = .encode c n d := by
  simp [decodePorts, show n.toNat ≠ 0 by omega, h8]

theorem decodePorts_illegal (c : Bit) {n : BitVec 4} (d : Lanes) (h : 9 ≤ n.toNat) :
    decodePorts c n d = .encodeIllegal c n d := by
  simp [decodePorts, show n.toNat ≠ 0 by omega, show ¬ n.toNat ≤ 8 by omega]

/-- The length selects one of the three operations (30_encoding.md R70 (a)). -/
theorem decodePorts_cases (c : Bit) (n : BitVec 4) (d : Lanes) :
    (n = 0 ∧ decodePorts c n d = .encodeEmpty c d) ∨
    (1 ≤ n.toNat ∧ n.toNat ≤ 8 ∧ decodePorts c n d = .encode c n d) ∨
    (9 ≤ n.toNat ∧ decodePorts c n d = .encodeIllegal c n d) := by
  obtain h0 | ⟨h1, h8⟩ | h9 : n.toNat = 0 ∨ (1 ≤ n.toNat ∧ n.toNat ≤ 8) ∨ 9 ≤ n.toNat := by omega
  · obtain rfl : n = 0 := BitVec.eq_of_toNat_eq h0
    exact .inl ⟨rfl, decodePorts_zero c d⟩
  · exact .inr (.inl ⟨h1, h8, decodePorts_encode c d h1 h8⟩)
  · exact .inr (.inr ⟨h9, decodePorts_illegal c d h9⟩)

theorem encode_decodePorts (lvl : PinLevel) (c : Bit) (n : BitVec 4) (d : Lanes) :
    encode lvl (decodePorts c n d) = .form (.encoderPort c n d) := by
  rcases decodePorts_cases c n d with ⟨rfl, h⟩ | ⟨_, _, h⟩ | ⟨_, h⟩ <;> rw [h] <;> rfl

theorem wellFormed_decodePorts (c : Bit) (n : BitVec 4) (d : Lanes) : (decodePorts c n d).WellFormed := by
  rcases decodePorts_cases c n d with ⟨_, h⟩ | ⟨h1, h8, h⟩ | ⟨h9, h⟩ <;> rw [h]
  · rfl
  · exact wellFormed_encode.mpr ⟨h1, h8⟩
  · exact wellFormed_encodeIllegal.mpr h9

/-! ### Requests -/

theorem encode_decodeRequest (lvl : PinLevel) (r : Request) : encode lvl (decodeRequest r) = .form (.request r) := by
  cases r <;> rfl

theorem wellFormed_decodeRequest (r : Request) : (decodeRequest r).WellFormed := by
  cases r <;> rfl

/-! ### Logical words -/

/-- A word is its upper part above its lower part. -/
theorem extractLsb'_append_self {hi lo : Nat} (x : BitVec (hi + lo)) :
    x.extractLsb' lo hi ++ x.extractLsb' 0 lo = x := by
  rw [BitVec.extractLsb'_append_extractLsb'_eq_extractLsb' (Nat.zero_add lo).symm, BitVec.extractLsb'_eq_self]

/-- A logical word is its control bit above its payload (30_encoding.md R61). -/
theorem word9_extractLsb' (w : Word9) : word9 (w.extractLsb' 8 1) (w.extractLsb' 0 8) = w :=
  extractLsb'_append_self (hi := 1) (lo := 8) w

theorem decodeWord9_word9 (c : Bit) (p : Byte) :
    decodeWord9 (word9 c p) = if c = 0 then .cmdWord p else .dataWord p := by
  simp only [decodeWord9, word9, BitVec.extractLsb'_append_eq_left, BitVec.extractLsb'_append_eq_right]

theorem decodeWord9_command (p : Byte) : decodeWord9 (word9 0 p) = .cmdWord p := decodeWord9_word9 0 p

theorem decodeWord9_data (p : Byte) : decodeWord9 (word9 1 p) = .dataWord p := decodeWord9_word9 1 p

/-- Every logical word is read as the word type of its control bit, and it is the word of what is read. -/
theorem decodeWord9_cases (w : Word9) :
    ∃ p, (w = word9 0 p ∧ decodeWord9 w = .cmdWord p) ∨ (w = word9 1 p ∧ decodeWord9 w = .dataWord p) := by
  refine ⟨w.extractLsb' 0 8, ?_⟩
  have hw := word9_extractLsb' w
  obtain hc | hc : w.extractLsb' 8 1 = 0 ∨ w.extractLsb' 8 1 = 1 := by
    generalize w.extractLsb' 8 1 = c
    revert c
    decide
  all_goals rw [hc] at hw
  · exact .inl ⟨hw.symm, (congrArg decodeWord9 hw.symm).trans (decodeWord9_command _)⟩
  · exact .inr ⟨hw.symm, (congrArg decodeWord9 hw.symm).trans (decodeWord9_data _)⟩

theorem encode_decodeWord9 (lvl : PinLevel) (w : Word9) : encode lvl (decodeWord9 w) = .form (.wire9 w) := by
  obtain ⟨p, ⟨rfl, h⟩ | ⟨rfl, h⟩⟩ := decodeWord9_cases w <;> rw [h] <;> rfl

theorem wellFormed_decodeWord9 (w : Word9) : (decodeWord9 w).WellFormed := by
  obtain ⟨p, ⟨_, h⟩ | ⟨_, h⟩⟩ := decodeWord9_cases w <;> rw [h] <;> rfl

/-! ### The contrast payload -/

/-- The contrast command's byte is `100` above its 5-bit value (30_encoding.md R69). -/
theorem contrastByte_eq_append (v : BitVec 5) : contrastByte v = 0b100#3 ++ v := by
  revert v
  decide

/-- The mask of R69 is the cut to 5 bits. -/
theorem contrastByte_setWidth (v : Byte) : contrastByte (v.setWidth 5) = 0x80 ||| (v &&& 0x1F) := by
  have hmask : (v.setWidth 5).setWidth 8 = v &&& 0x1F := by
    apply BitVec.eq_of_toNat_eq
    have hmod : v.toNat &&& 31 = v.toNat % 32 := Nat.and_two_pow_sub_one_eq_mod v.toNat 5
    simp only [BitVec.toNat_setWidth, BitVec.toNat_and, BitVec.reduceToNat]
    omega
  rw [contrastByte, hmask]
  rfl

/-- A payload byte whose bits 7:5 are `100` is the contrast byte of its bits 4:0. -/
theorem eq_contrastByte_of_top {p : Byte} (h : p.extractLsb' 5 3 = 0b100) : p = contrastByte (p.extractLsb' 0 5) := by
  calc p = p.extractLsb' 5 3 ++ p.extractLsb' 0 5 := (extractLsb'_append_self (hi := 3) (lo := 5) p).symm
    _ = 0b100#3 ++ p.extractLsb' 0 5 := by rw [h]; rfl
    _ = contrastByte (p.extractLsb' 0 5) := (contrastByte_eq_append _).symm

theorem decodePayload_contrastByte (v : BitVec 5) : decodePayload (contrastByte v) = .ok (.setContrast v) := by
  have htop : (contrastByte v).extractLsb' 5 3 = 0b100 := by
    rw [contrastByte_eq_append]
    exact BitVec.extractLsb'_append_eq_left
  have hvalue : (contrastByte v).extractLsb' 0 5 = v := by
    rw [contrastByte_eq_append]
    exact BitVec.extractLsb'_append_eq_right
  rw [decodePayload, if_pos htop, hvalue]

/-- A payload byte is a contrast byte and read as one, or it is rejected by name. -/
theorem decodePayload_cases (p : Byte) :
    (∃ v, p = contrastByte v ∧ decodePayload p = .ok (.setContrast v)) ∨
    ((∀ v, p ≠ contrastByte v) ∧ decodePayload p = .error (.payloadNotListed p)) := by
  by_cases h : p.extractLsb' 5 3 = 0b100
  · have hp := eq_contrastByte_of_top h
    exact .inl ⟨_, hp, (congrArg decodePayload hp).trans (decodePayload_contrastByte _)⟩
  · have hd : decodePayload p = .error (.payloadNotListed p) := by simp only [decodePayload, if_neg h]
    refine .inr ⟨fun v hv => ?_, hd⟩
    rw [hv, decodePayload_contrastByte] at hd
    cases hd

theorem encode_of_decodePayload {p : Byte} {i : Instr} (lvl : PinLevel) (h : decodePayload p = .ok i) :
    encode lvl i = .form (.payloadByte p) := by
  obtain ⟨v, rfl, hd⟩ | ⟨_, hd⟩ := decodePayload_cases p <;> rw [hd] at h <;> cases h
  rfl

theorem wellFormed_of_decodePayload {p : Byte} {i : Instr} (h : decodePayload p = .ok i) : i.WellFormed := by
  obtain ⟨v, _, hd⟩ | ⟨_, hd⟩ := decodePayload_cases p <;> rw [hd] at h <;> cases h
  rfl

/-! ### Collaborator calls -/

theorem PinLevel.other_ne (lvl : PinLevel) : lvl.other ≠ lvl := by
  cases lvl <;> nofun

theorem PinLevel.eq_other_of_ne : ∀ {l lvl : PinLevel}, l ≠ lvl → l = lvl.other
  | .low, .low, h | .high, .high, h => absurd rfl h
  | .low, .high, _ | .high, .low, _ => rfl

theorem decodeCall_assert (lvl : PinLevel) : decodeCall lvl (.pinSet lvl) = .csAssert := if_pos rfl

theorem decodeCall_deassert (lvl : PinLevel) : decodeCall lvl (.pinSet lvl.other) = .csDeassert := if_neg lvl.other_ne

/-- A call is one of the three bus events (30_encoding.md R68). -/
theorem decodeCall_cases (lvl : PinLevel) (k : BusCall) :
    (k = .pinSet lvl ∧ decodeCall lvl k = .csAssert) ∨ (k = .busWrite ∧ decodeCall lvl k = .busWrite) ∨
    (k = .pinSet lvl.other ∧ decodeCall lvl k = .csDeassert) := by
  cases k with
  | pinSet l =>
    by_cases h : l = lvl
    · subst h
      exact .inl ⟨rfl, decodeCall_assert l⟩
    · obtain rfl := PinLevel.eq_other_of_ne h
      exact .inr (.inr ⟨rfl, decodeCall_deassert lvl⟩)
  | busWrite => exact .inr (.inl ⟨rfl, rfl⟩)

theorem encode_decodeCall (lvl : PinLevel) (k : BusCall) : encode lvl (decodeCall lvl k) = .call k := by
  rcases decodeCall_cases lvl k with ⟨rfl, h⟩ | ⟨rfl, h⟩ | ⟨rfl, h⟩ <;> rw [h] <;> rfl

theorem wellFormed_decodeCall (lvl : PinLevel) (k : BusCall) : (decodeCall lvl k).WellFormed := by
  rcases decodeCall_cases lvl k with ⟨_, h⟩ | ⟨_, h⟩ | ⟨_, h⟩ <;> rw [h] <;> rfl

/-! ### Bare words (log 18) -/

/-- A bare word that is read at all is read as ENC's length, as a payload byte or as a logical word. -/
theorem decodeBits_cases {nbits w : Nat} {i : Instr} (h : decodeBits nbits w = .ok i) :
    i = decodePorts 0 (BitVec.ofNat 4 w) zeroLanes ∨ decodePayload (BitVec.ofNat 8 w) = .ok i ∨
      i = decodeWord9 (BitVec.ofNat 9 w) := by
  unfold decodeBits at h
  split at h
  · split at h
    · cases h
      exact .inl rfl
    · split at h
      · exact .inr (.inl h)
      · cases h
  · split at h
    · cases h
      exact .inr (.inr rfl)
    · cases h

theorem wellFormed_of_decodeBits {nbits w : Nat} {i : Instr} (h : decodeBits nbits w = .ok i) : i.WellFormed := by
  rcases decodeBits_cases h with rfl | h | rfl
  · exact wellFormed_decodePorts _ _ _
  · exact wellFormed_of_decodePayload h
  · exact wellFormed_decodeWord9 _

/-! ### The decoder's statements -/

/-- Settles O1: format by format; the length, the control bit, the top bits and the pin level each select the operation
that was encoded. -/
theorem decodeOfEncodeIsInstr : Obligations.DecodeOfEncodeIsInstr := by
  intro lvl i hi
  cases i with
  | encode c n d =>
    obtain ⟨h1, h8⟩ := wellFormed_encode.mp hi
    exact congrArg Except.ok (decodePorts_encode c d h1 h8)
  | encodeEmpty c d => exact congrArg Except.ok (decodePorts_zero c d)
  | encodeIllegal c n d => exact congrArg Except.ok (decodePorts_illegal c d (wellFormed_encodeIllegal.mp hi))
  | send bytes isCommand => rfl
  | sendCommand byte => rfl
  | csAssert => exact congrArg Except.ok (decodeCall_assert lvl)
  | busWrite => rfl
  | csDeassert => exact congrArg Except.ok (decodeCall_deassert lvl)
  | cmdWord p => exact congrArg Except.ok (decodeWord9_command p)
  | dataWord p => exact congrArg Except.ok (decodeWord9_data p)
  | setContrast v => exact decodePayload_contrastByte v

/-- Settles O2: format by format; a bare word names none. -/
theorem encodeOfDecodeIsForm : Obligations.EncodeOfDecodeIsForm := by
  intro lvl e i hf h
  match e with
  | .form (.encoderPort c n d) => cases h; exact encode_decodePorts lvl c n d
  | .form (.request r) => cases h; exact encode_decodeRequest lvl r
  | .form (.wire9 w) => cases h; exact encode_decodeWord9 lvl w
  | .form (.payloadByte p) => exact encode_of_decodePayload lvl h
  | .form (.bits _ _) => exact absurd rfl hf
  | .call k => cases h; exact encode_decodeCall lvl k

/-- Settles O3: only ENC's two length conditions ask for anything, and the decoder splits the lengths by them. -/
theorem decodedIsWellFormed : Obligations.DecodedIsWellFormed := by
  intro lvl e i h
  match e with
  | .form (.encoderPort c n d) => cases h; exact wellFormed_decodePorts c n d
  | .form (.request r) => cases h; exact wellFormed_decodeRequest r
  | .form (.wire9 w) => cases h; exact wellFormed_decodeWord9 w
  | .form (.payloadByte p) => exact wellFormed_of_decodePayload h
  | .form (.bits nbits w) => exact wellFormed_of_decodeBits h
  | .call k => cases h; exact wellFormed_decodeCall lvl k

/-- Settles O4: each word evaluated by the decoder. -/
theorem specWordsDecode : Obligations.SpecWordsDecode :=
  ⟨rfl, rfl, rfl, rfl, rfl, rfl, rfl⟩

/-- Settles O5: level (a) by the length's three ranges, the others by the word and the pin level. -/
theorem opcodeMapSelects : Obligations.OpcodeMapSelects := by
  refine ⟨fun lvl c n d => congrArg Except.ok ?_, fun lvl bytes isCommand byte => ⟨rfl, rfl⟩, fun lvl p => ?_,
    fun lvl => ?_⟩
  · rcases decodePorts_cases c n d with ⟨h0, h⟩ | ⟨h1, h8, h⟩ | ⟨h9, h⟩ <;> rw [h]
    · rw [if_pos h0]
    · rw [if_neg (by bv_omega), if_pos (by bv_omega)]
    · rw [if_neg (by bv_omega), if_neg (by bv_omega)]
  · exact ⟨congrArg Except.ok (decodeWord9_command p), congrArg Except.ok (decodeWord9_data p)⟩
  · exact ⟨congrArg Except.ok (decodeCall_assert lvl), rfl, congrArg Except.ok (decodeCall_deassert lvl)⟩

/-- Settles O6: a byte of the layout is a contrast byte, and a contrast byte is of the layout. -/
theorem contrastIsTheOnlyListedPayload : Obligations.ContrastIsTheOnlyListedPayload := by
  intro lvl p
  refine ⟨fun v hp => ?_, fun hp => ?_⟩
  · obtain rfl : p = contrastByte (v.setWidth 5) := hp.trans (contrastByte_setWidth v).symm
    exact decodePayload_contrastByte _
  · obtain ⟨v, hv, _⟩ | ⟨_, h⟩ := decodePayload_cases p
    · have hlayout := contrastByte_setWidth (v.setWidth 8)
      rw [BitVec.setWidth_setWidth_of_le v (by omega), BitVec.setWidth_eq] at hlayout
      exact absurd (hv.trans hlayout) (hp _)
    · exact h

end Sys2Proof

namespace Sys2Proof.Machine

/-! ### ENC's empty and illegal lengths, and the wire words -/

/-- Settles O9: length 0 is legal and the loop runs no time. -/
theorem encodeEmptyGivesNoBytes : Obligations.EncodeEmptyGivesNoBytes := by
  intro c d s
  have hzero : (0 : BitVec 4).toNat ≤ 8 := by decide
  exact ⟨_, rfl, presentPorts_legal hzero s, encodePorts_legal hzero⟩

/-- Settles O10: a length above 8 marks the state and has no output. -/
theorem encodeIllegalRaisesMark : Obligations.EncodeIllegalRaisesMark := by
  intro c n d s hn
  have hlong : 8 < n.toNat := hn
  have ht := presentPorts_illegal (p := { c := c, n := n, d := d }) hlong s
  exact ⟨_, congrArg Host.Outcome.next ht, rfl, encodePorts_illegal hlong⟩

theorem accept_singleton {s : State} (h : s.phase = .idle) (p : Byte) (isCommand : Bool) :
    accept [p] isCommand s = { s with
      req := [p], c := if isCommand then 0 else 1, nblk := 1, b := 0, phase := if s.cfg.hasCs then .assert else .write
      trace := s.trace ++ [.callBegin 1 (if isCommand then 0 else 1)] } := by
  have hone : blockCount 1 = 1 := rfl
  rw [accept_bytes h (List.cons_ne_nil p []), List.length_singleton, hone, startPhase]

/-- Settles O22: each of the three is a request of one byte, and IDLE accepts it. -/
theorem wordsStartOneByteRequests : Obligations.WordsStartOneByteRequests := by
  intro i s p bit hidle hi
  have hstart (isCommand : Bool) := accept_singleton hidle p isCommand
  rcases hi with ⟨rfl, rfl⟩ | ⟨rfl, rfl⟩ | ⟨v, rfl, rfl, rfl⟩
  · exact congrArg Host.Outcome.next (hstart true)
  · exact congrArg Host.Outcome.next (hstart false)
  · exact congrArg Host.Outcome.next (hstart true)

/-! ### The block of a one-byte request -/

theorem outByte_orInto_self {q : Block} {j : Nat} (h : j ≤ 8) (v : Byte) :
    outByte (orInto q j v) j = outByte q j ||| v := by
  simp [outByte, orInto, show j < 9 by omega]

/-- The loop's body puts the word's control field and high part into byte `s` (40_encoder.md R80). -/
theorem outByte_packWord_self (c : Bit) (d : Lanes) {s : Nat} (q : Block) (h : s ≤ 8) :
    outByte (packWord c d s q) s = outByte q s ||| controlField c s ||| highField (lane d s) s := by
  rw [packWord, outByte_orInto_of_ne (by omega), outByte_orInto_self h, outByte_orInto_self h]

/-- The loop's body puts the word's low part into byte `s + 1` (40_encoder.md R80). -/
theorem outByte_packWord_succ (c : Bit) (d : Lanes) {s : Nat} (q : Block) (h : s < 8) :
    outByte (packWord c d s q) (s + 1) = outByte q (s + 1) ||| lowField (lane d s) s := by
  rw [packWord, outByte_orInto_self (by omega), outByte_orInto_of_ne (by omega), outByte_orInto_of_ne (by omega)]

theorem validBytes_two (q : Block) : validBytes q 2 = [outByte q 0, outByte q 1] := by
  apply List.ext_getElem?
  intro k
  match k with
  | 0 => simp [validBytes, outByte]
  | 1 => simp [validBytes, outByte]
  | k + 2 => simp [validBytes]

/-- The two bytes of a one-byte block (30_encoding.md R65). -/
theorem encodedBytes_singleton (c : Bit) (p : Byte) :
    encodedBytes c [p] = [c.setWidth 8 <<< 7 ||| p >>> 1, p <<< 7] := by
  have hlane : lane (loadLanes [p] 0 zeroLanes 1) 0 = p := lane_loadLanes [p] 0 zeroLanes (by omega) (by omega)
  change validBytes (packWord c (loadLanes [p] 0 zeroLanes 1) 0 (Vector.replicate 9 0)) 2 = _
  rw [validBytes_two, outByte_packWord_self _ _ _ (by omega), outByte_packWord_succ _ _ _ (by omega), hlane,
    outByte_zeroBlock, outByte_zeroBlock]
  simp [controlField, highField, lowField]

/-- Read as one 16-bit string the two bytes are the word and 7 zeros, bit for bit (30_encoding.md R61, R64). -/
theorem oneWordBytes_append (c : Bit) (p : Byte) :
    (c.setWidth 8 <<< 7 ||| p >>> 1) ++ p <<< 7 = word9 c p ++ 0#7 := by
  ext k hk
  simp only [word9, BitVec.getElem_append]
  interval_cases k <;> simp

theorem getElem?_byteBits {k : Nat} (x : Byte) (h : k < 8) : (byteBits x)[k]? = some (x.extractLsb' (7 - k) 1) := by
  simp [byteBits, h]

/-- The bits sent for two bytes are those of the 16-bit string, from bit 15 down (20_memory.md R42, R43). -/
theorem getElem?_streamBits_pair {k : Nat} (x y : Byte) (h : k < 16) :
    (streamBits [x, y])[k]? = some ((x ++ y).extractLsb' (15 - k) 1) := by
  have hlen (z : Byte) : (byteBits z).length = 8 := by simp [byteBits]
  have hstream : streamBits [x, y] = byteBits x ++ byteBits y := by simp [streamBits]
  rw [hstream]
  by_cases hk : k < 8
  · rw [List.getElem?_append_left (by rw [hlen]; exact hk), getElem?_byteBits x hk,
      BitVec.extractLsb'_append_eq_of_le (by omega), show 15 - k - 8 = 7 - k by omega]
  · rw [List.getElem?_append_right (by rw [hlen]; omega), hlen, getElem?_byteBits y (by omega),
      BitVec.extractLsb'_append_eq_of_add_le (by omega), show 7 - (k - 8) = 15 - k by omega]

/-- Settles O24: the block's 16 bits are the word above 7 zeros, so the first 9 bits sent are the word's. -/
theorem oneWordBlockCarriesTheWord : Obligations.OneWordBlockCarriesTheWord := by
  intro c p k hk
  rw [encodedBytes_singleton, getElem?_streamBits_pair _ _ hk, oneWordBytes_append]
  split
  · rw [BitVec.extractLsb'_append_eq_of_le (by omega), show 15 - k - 7 = 8 - k by omega]
  · rw [BitVec.extractLsb'_append_eq_of_add_le (by omega), BitVec.extractLsb'_zero]
    rfl

end Sys2Proof.Machine
end

section
/-! PROOFS of ENC's statements (40_encoder.md): the loop in closed form, the bits it places, and the laws that
follow. -/

namespace Sys2Proof.Machine

/-! ### The loop's bytes in closed form -/

theorem outByte_packWord_of_ne (c : Bit) (d : Lanes) {s j : Nat} (q : Block) (hs : j ≠ s) (hsucc : j ≠ s + 1) :
    outByte (packWord c d s q) j = outByte q j := by
  rw [packWord, outByte_orInto_of_ne hsucc.symm, outByte_orInto_of_ne hs.symm, outByte_orInto_of_ne hs.symm]

/-- Byte `s` of the first `s` words holds only the low part of word `s - 1`. -/
theorem closedByte_succ_self (c : Bit) (d : Lanes) (s : Nat) :
    closedByte c (s + 1) d s = closedByte c s d s ||| controlField c s ||| highField (lane d s) s := by
  simp [closedByte, controlField, highField, BitVec.or_assoc]

theorem closedByte_succ_succ (c : Bit) (d : Lanes) (s : Nat) :
    closedByte c (s + 1) d (s + 1) = closedByte c s d (s + 1) ||| lowField (lane d s) s := by
  simp [closedByte, lowField]

theorem closedByte_succ_of_ne (c : Bit) (d : Lanes) {s j : Nat} (hs : j ≠ s) (hsucc : j ≠ s + 1) :
    closedByte c (s + 1) d j = closedByte c s d j := by
  simp only [closedByte, show j ≤ s + 1 ↔ j ≤ s by omega, show j < s + 1 ↔ j < s by omega]

theorem closedByte_zero (c : Bit) (d : Lanes) (j : Nat) : closedByte c 0 d j = 0 := by
  simp [closedByte, show ¬ (1 ≤ j ∧ j = 0) by omega]

/-- The loop is R89's closed form (40_encoder.md R89). -/
theorem outByte_packWords (c : Bit) (d : Lanes) {n : Nat} (hn : n ≤ 8) (j : Nat) :
    outByte (packWords c d n) j = closedByte c n d j := by
  induction n with
  | zero => exact (outByte_zeroBlock j).trans (closedByte_zero c d j).symm
  | succ s ih =>
    rw [packWords]
    by_cases hs : j = s
    · subst hs
      rw [outByte_packWord_self c d _ (by omega), closedByte_succ_self, ih (by omega)]
    by_cases hsucc : j = s + 1
    · subst hsucc
      rw [outByte_packWord_succ c d _ (by omega), closedByte_succ_succ, ih (by omega)]
    rw [outByte_packWord_of_ne c d _ hs hsucc, closedByte_succ_of_ne c d hs hsucc, ih (by omega)]

/-! ### The bits of a word's three fields -/

/-- A control field is 0 but for bit `7 - s` (40_encoder.md R82). -/
theorem getLsbD_controlField (c : Bit) {s : Nat} (hs : s ≤ 7) (i : Nat) :
    (controlField c s).getLsbD i = (decide (i = 7 - s) && c.getLsbD 0) := by
  obtain hi | rfl | hi : i < 7 - s ∨ i = 7 - s ∨ 7 - s < i := by omega
  · simp [controlField, hi, show i ≠ 7 - s by omega]
  · simp [controlField, show 7 - s < 8 by omega]
  · simp [controlField, show i ≠ 7 - s by omega, BitVec.getLsbD_of_ge, show 1 ≤ i - (7 - s) by omega]

theorem getLsbD_highField (x : Byte) (s i : Nat) : (highField x s).getLsbD i = x.getLsbD (s + 1 + i) :=
  BitVec.getLsbD_ushiftRight x (s + 1) i

theorem getLsbD_lowField_add (x : Byte) {s i : Nat} (hs : s ≤ 7) (hi : i ≤ s) :
    (lowField x s).getLsbD (7 - s + i) = x.getLsbD i := by
  simp [lowField, show 7 - s + i < 8 by omega, BitVec.getLsbD_eq_getElem (show i < 8 by omega)]

/-- Above its control bit a word puts nothing into its own byte. -/
theorem getLsbD_ownFields_of_gt (c : Bit) (x : Byte) {s i : Nat} (hs : s ≤ 7) (hi : 7 - s < i) :
    (controlField c s ||| highField x s).getLsbD i = false := by
  rw [BitVec.getLsbD_or, getLsbD_controlField c hs, getLsbD_highField, BitVec.getLsbD_of_ge x _ (by omega)]
  simp [show i ≠ 7 - s by omega]

theorem getLsbD_ownFields_control (c : Bit) (x : Byte) {s : Nat} (hs : s ≤ 7) :
    (controlField c s ||| highField x s).getLsbD (7 - s) = c.getLsbD 0 := by
  rw [BitVec.getLsbD_or, getLsbD_controlField c hs, getLsbD_highField, BitVec.getLsbD_of_ge x _ (by omega)]
  simp

theorem getLsbD_ownFields_of_lt (c : Bit) (x : Byte) {s i : Nat} (hi : i < 7 - s) :
    (controlField c s ||| highField x s).getLsbD i = x.getLsbD (s + 1 + i) := by
  rw [BitVec.getLsbD_or, getLsbD_controlField c (by omega), getLsbD_highField]
  simp [show i ≠ 7 - s by omega]

/-! ### The bits of the output bytes (40_encoder.md R87) -/

section Bits

variable (c : Bit) (d : Lanes) {n : Nat}

/-- Below the `j` bits of the word before, byte `j` holds word `j`'s own fields, or padding. -/
theorem getLsbD_closedByte_of_lt {j i : Nat} (hi : i < 8 - j) :
    (closedByte c n d j).getLsbD i =
      (decide (j < n) && (controlField c j ||| highField (lane d j) j).getLsbD i) := by
  have hbefore : (if 1 ≤ j ∧ j ≤ n then lane d (j - 1) <<< (8 - j) else 0).getLsbD i = false := by
    split <;> simp [hi]
  rw [closedByte, BitVec.getLsbD_or, hbefore, Bool.false_or]
  by_cases hj : j < n
  · simp [hj, controlField, highField]
  · simp [hj]

theorem closedByte_succ {k : Nat} (hk : k < n) :
    closedByte c n d (k + 1) = lowField (lane d k) k |||
      (if k + 1 < n then controlField c (k + 1) ||| highField (lane d (k + 1)) (k + 1) else 0) := by
  simp [closedByte, lowField, controlField, highField, hk]

variable (hn : n ≤ 8)
include hn

theorem getLsbD_outByte_control {k : Nat} (hk : k < n) :
    (outByte (packWords c d n) k).getLsbD (7 - k) = c.getLsbD 0 := by
  rw [outByte_packWords c d hn, getLsbD_closedByte_of_lt c d (by omega), decide_eq_true hk, Bool.true_and,
    getLsbD_ownFields_control c _ (by omega)]

theorem getLsbD_outByte_high {k i : Nat} (hk : k < n) (hi : i < 7 - k) :
    (outByte (packWords c d n) k).getLsbD i = (lane d k).getLsbD (k + 1 + i) := by
  rw [outByte_packWords c d hn, getLsbD_closedByte_of_lt c d (by omega), decide_eq_true hk, Bool.true_and,
    getLsbD_ownFields_of_lt c _ hi]

theorem getLsbD_outByte_low {k i : Nat} (hk : k < n) (hi : i ≤ k) :
    (outByte (packWords c d n) (k + 1)).getLsbD (7 - k + i) = (lane d k).getLsbD i := by
  rw [outByte_packWords c d hn, closedByte_succ c d hk, BitVec.getLsbD_or, getLsbD_lowField_add _ (by omega) hi]
  split
  · rw [getLsbD_ownFields_of_gt c _ (by omega) (by omega), Bool.or_false]
  · rw [BitVec.ofNat_eq_ofNat, BitVec.getLsbD_zero, Bool.or_false]

theorem getLsbD_outByte_padding {i : Nat} (hi : i < 8 - n) : (outByte (packWords c d n) n).getLsbD i = false := by
  rw [outByte_packWords c d hn, getLsbD_closedByte_of_lt c d hi, decide_eq_false (Nat.lt_irrefl n), Bool.false_and]

end Bits

/-! ### The fields of the output bytes -/

theorem extractLsb'_congr {v w len a b : Nat} {x : BitVec v} {y : BitVec w}
    (h : ∀ i < len, x.getLsbD (a + i) = y.getLsbD (b + i)) : x.extractLsb' a len = y.extractLsb' b len := by
  apply BitVec.eq_of_getLsbD_eq
  intro i hi
  rw [BitVec.getLsbD_extractLsb', BitVec.getLsbD_extractLsb', h i hi]

theorem extractLsb'_one_congr {v w a b : Nat} {x : BitVec v} {y : BitVec w} (h : x.getLsbD a = y.getLsbD b) :
    x.extractLsb' a 1 = y.extractLsb' b 1 :=
  extractLsb'_congr fun i hi => by rwa [Nat.lt_one_iff.mp hi]

section Fields

variable (c : Bit) (d : Lanes) {n : Nat} (hn : n ≤ 8)
include hn

/-- Bit `7 - k` of byte `k` is the control bit (40_encoder.md R82). -/
theorem outByte_controlBit {k : Nat} (hk : k < n) :
    (outByte (packWords c d n) k).extractLsb' (7 - k) 1 = c :=
  (extractLsb'_one_congr (getLsbD_outByte_control c d hn hk)).trans BitVec.extractLsb'_eq_self

/-- The bits of byte `k` below its control bit are the high bits of word `k` (40_encoder.md R83). -/
theorem outByte_highBits {k : Nat} (hk : k < n) :
    (outByte (packWords c d n) k).extractLsb' 0 (7 - k) = (lane d k).extractLsb' (k + 1) (7 - k) :=
  extractLsb'_congr fun i hi => by rw [Nat.zero_add, getLsbD_outByte_high c d hn hk hi]

/-- The top `k + 1` bits of byte `k + 1` are the low bits of word `k` (40_encoder.md R84). -/
theorem outByte_lowBits {k : Nat} (hk : k < n) :
    (outByte (packWords c d n) (k + 1)).extractLsb' (7 - k) (k + 1) = (lane d k).extractLsb' 0 (k + 1) :=
  extractLsb'_congr fun i hi => by rw [Nat.zero_add, getLsbD_outByte_low c d hn hk (by omega)]

/-- The bits of byte `n` below the last word are 0 (30_encoding.md R64). -/
theorem outByte_paddingBits : (outByte (packWords c d n) n).extractLsb' 0 (8 - n) = 0 := by
  apply BitVec.eq_of_getLsbD_eq
  intro i hi
  rw [BitVec.getLsbD_extractLsb', Nat.zero_add, getLsbD_outByte_padding c d hn hi, Bool.and_false]
  exact BitVec.getLsbD_zero.symm

/-- A payload is recovered: its high bits come from byte `k`, its low bits from byte `k + 1` (40_encoder.md R93). -/
theorem unpackPayload_packWords {k : Nat} (hk : k < n) : unpackPayload (packWords c d n) k = lane d k := by
  apply BitVec.eq_of_getLsbD_eq
  intro i hi
  rw [unpackPayload, BitVec.getLsbD_or, BitVec.getLsbD_shiftLeft, BitVec.getLsbD_ushiftRight]
  by_cases hlow : i < k + 1
  · rw [getLsbD_outByte_low c d hn hk (by omega)]
    simp [hlow]
  · rw [getLsbD_outByte_high c d hn hk (by omega), BitVec.getLsbD_of_ge _ (7 - k + i) (by omega),
      show k + 1 + (i - (k + 1)) = i by omega]
    simp [hi, hlow]

theorem unpackControl_packWords (h0 : 0 < n) : unpackControl (packWords c d n) = c :=
  outByte_controlBit c d hn h0

end Fields

/-- A word sent with control bit 1 differs by that bit (40_encoder.md R97). -/
theorem closedByte_one (n : Nat) (d : Lanes) (j : Nat) :
    closedByte 1 n d j = closedByte 0 n d j ||| (if j < n then 1#8 <<< (7 - j) else 0) := by
  by_cases hj : j < n
  · simp only [closedByte, hj, if_true]
    rw [BitVec.or_comm ((1 : Bit).setWidth 8 <<< (7 - j)), ← BitVec.or_assoc]
    simp
  · simp [closedByte, hj]

/-! ### The block as a bit string (40_encoder.md R90) -/

/-- Lists of one length `w` laid end to end: element `p` is element `p % w` of list `p / w`. -/
theorem getElem?_flatMap_of_length {α β : Type*} {f : α → List β} {w : Nat} (hw : 0 < w)
    (hf : ∀ a, (f a).length = w) (l : List α) (p : Nat) :
    (l.flatMap f)[p]? = l[p / w]?.bind fun a => (f a)[p % w]? := by
  induction l generalizing p with
  | nil => simp
  | cons a l ih =>
    rw [List.flatMap_cons]
    by_cases hp : p < w
    · rw [List.getElem?_append_left (by rwa [hf]), Nat.div_eq_of_lt hp, Nat.mod_eq_of_lt hp]
      rfl
    · have hle : w ≤ p := Nat.le_of_not_lt hp
      rw [List.getElem?_append_right (by rwa [hf]), hf, ih, Nat.div_eq_sub_div hw hle, Nat.mod_eq_sub_mod hle]
      rfl

theorem length_byteBits (x : Byte) : (byteBits x).length = 8 := by
  rw [byteBits, List.length_map, List.length_range]

theorem length_wordBits (c : Bit) (p : Byte) : (wordBits c p).length = 9 := by
  rw [wordBits, List.length_cons, length_byteBits]

theorem getElem?_streamBits (bytes : List Byte) (p : Nat) :
    (streamBits bytes)[p]? = bytes[p / 8]?.map fun x => x.extractLsb' (7 - p % 8) 1 := by
  rw [streamBits, getElem?_flatMap_of_length (by omega) length_byteBits]
  simp only [getElem?_byteBits _ (show p % 8 < 8 by omega)]
  exact Option.map_eq_bind.symm

/-- The bits of a word as sent are those of the 9-bit word, from bit 8 down (30_encoding.md R61). -/
theorem getElem?_wordBits (c : Bit) (p : Byte) {r : Nat} (hr : r < 9) :
    (wordBits c p)[r]? = some ((word9 c p).extractLsb' (8 - r) 1) := by
  cases r with
  | zero => exact congrArg some BitVec.extractLsb'_append_eq_left.symm
  | succ r =>
    rw [wordBits, List.getElem?_cons_succ, getElem?_byteBits p (by omega), word9,
      BitVec.extractLsb'_append_eq_of_add_le (by omega), show 8 - (r + 1) = 7 - r by omega]

theorem getElem?_wordsBits (c : Bit) (payload : List Byte) (p : Nat) :
    (wordsBits c payload)[p]? = payload[p / 9]?.map fun x => (word9 c x).extractLsb' (8 - p % 9) 1 := by
  rw [wordsBits, getElem?_flatMap_of_length (by omega) (length_wordBits c)]
  simp only [getElem?_wordBits c _ (show p % 9 < 9 by omega)]
  exact Option.map_eq_bind.symm

theorem length_wordsBits (c : Bit) (payload : List Byte) : (wordsBits c payload).length = 9 * payload.length := by
  simp [wordsBits, List.length_flatMap, length_wordBits, Nat.mul_comm]

theorem getElem?_validBytes (q : Block) {m j : Nat} (hm : m ≤ 9) (hj : j < m) :
    (validBytes q m)[j]? = some (outByte q j) := by
  simp [validBytes, outByte, hj, show j < 9 by omega]

theorem getElem?_take_lanes (d : Lanes) {n k : Nat} (hn : n ≤ 8) (hk : k < n) :
    (d.toList.take n)[k]? = some (lane d k) := by
  simp [lane, hk, show k < 8 by omega]

theorem length_validBytes (q : Block) {m : Nat} (hm : m ≤ 9) : (validBytes q m).length = m := by
  simp [validBytes, hm]

theorem length_streamBits (bytes : List Byte) : (streamBits bytes).length = 8 * bytes.length := by
  simp [streamBits, List.length_flatMap, length_byteBits, Nat.mul_comm]

/-- Bit `p` of the bytes sent is bit `p` of the words laid end to end (40_encoder.md R90). -/
theorem extractLsb'_outByte_of_lt (c : Bit) (d : Lanes) {n p : Nat} (hn : n ≤ 8) (hp : p < 9 * n) :
    (outByte (packWords c d n) (p / 8)).extractLsb' (7 - p % 8) 1 =
      (word9 c (lane d (p / 9))).extractLsb' (8 - p % 9) 1 := by
  obtain ⟨k, r, hr, rfl⟩ : ∃ k r, r < 9 ∧ p = 9 * k + r := ⟨p / 9, p % 9, by omega, by omega⟩
  have hk : k < n := by omega
  rw [show (9 * k + r) / 9 = k by omega, show (9 * k + r) % 9 = r by omega]
  obtain rfl | ⟨h1, hsame⟩ | hnext : r = 0 ∨ (1 ≤ r ∧ k + r ≤ 7) ∨ 8 ≤ k + r := by omega
  · rw [show (9 * k + 0) / 8 = k by omega, show (9 * k + 0) % 8 = k by omega, outByte_controlBit c d hn hk]
    exact BitVec.extractLsb'_append_eq_left.symm
  · rw [show (9 * k + r) / 8 = k by omega, show (9 * k + r) % 8 = k + r by omega, word9,
      BitVec.extractLsb'_append_eq_of_add_le (by omega)]
    refine extractLsb'_one_congr ((getLsbD_outByte_high c d hn hk (by omega)).trans ?_)
    rw [show k + 1 + (7 - (k + r)) = 8 - r by omega]
  · rw [show (9 * k + r) / 8 = k + 1 by omega, show 7 - (9 * k + r) % 8 = 7 - k + (8 - r) by omega, word9,
      BitVec.extractLsb'_append_eq_of_add_le (by omega)]
    exact extractLsb'_one_congr (getLsbD_outByte_low c d hn hk (by omega))

/-- From the last word on, the bits sent are 0 (30_encoding.md R64). -/
theorem extractLsb'_outByte_of_le (c : Bit) (d : Lanes) {n p : Nat} (hn : n ≤ 8) (hle : 9 * n ≤ p)
    (hlt : p < 8 * (n + 1)) : (outByte (packWords c d n) (p / 8)).extractLsb' (7 - p % 8) 1 = 0 := by
  rw [show p / 8 = n by omega]
  refine (extractLsb'_one_congr (y := (0 : Bit)) (b := 0) ?_).trans BitVec.extractLsb'_zero
  rw [getLsbD_outByte_padding c d hn (by omega)]
  rfl

/-- The `n + 1` bytes of `n` words, bit by bit, are the words end to end and `8 - n` zeros (40_encoder.md R90). -/
theorem streamBits_packWords (c : Bit) (d : Lanes) {n : Nat} (hn : n ≤ 8) :
    streamBits (validBytes (packWords c d n) (n + 1)) =
      wordsBits c (d.toList.take n) ++ List.replicate (8 - n) 0 := by
  have hm : n + 1 ≤ 9 := by omega
  have hwords : (wordsBits c (d.toList.take n)).length = 9 * n := by
    rw [length_wordsBits, List.length_take_of_le (by simpa using hn)]
  apply List.ext_getElem?
  intro p
  obtain hp | ⟨hle, hlt⟩ | hp : p < 9 * n ∨ (9 * n ≤ p ∧ p < 8 * (n + 1)) ∨ 8 * (n + 1) ≤ p := by omega
  · rw [List.getElem?_append_left (by rwa [hwords]), getElem?_streamBits, getElem?_wordsBits,
      getElem?_validBytes _ hm (by omega), getElem?_take_lanes d hn (by omega), Option.map_some, Option.map_some,
      extractLsb'_outByte_of_lt c d hn hp]
  · rw [List.getElem?_append_right (by rwa [hwords]), List.getElem?_replicate_of_lt (by omega), getElem?_streamBits,
      getElem?_validBytes _ hm (by omega), Option.map_some, extractLsb'_outByte_of_le c d hn hle hlt]
  · rw [List.getElem?_eq_none (by rwa [length_streamBits, length_validBytes _ hm]),
      List.getElem?_eq_none (by rw [List.length_append, hwords, List.length_replicate]; omega)]

/-! ### ENC's operations -/

/-- What ENC answers, said over its three inputs. -/
theorem encodePorts_mk_eq_some {c : Bit} {n : BitVec 4} {d : Lanes} {o : EncOut} :
    encodePorts { c := c, n := n, d := d } = some o ↔ n.toNat ≤ 8 ∧ o = encodeWords c n.toNat d :=
  encodePorts_eq_some

/-- Whatever length ENC's ports carry, the operation read from them presents them. -/
theorem exec_decodePorts (c : Bit) (n : BitVec 4) (d : Lanes) (s : State) :
    exec (decodePorts c n d) s = .next (presentPorts { c := c, n := n, d := d } s) := by
  rcases decodePorts_cases c n d with ⟨rfl, h⟩ | ⟨_, _, h⟩ | ⟨_, h⟩ <;> rw [h] <;> rfl

/-! ### The statements -/

/-- Settles O7: the loop's bytes are R89's. -/
theorem encLoopIsClosedForm : Obligations.EncLoopIsClosedForm := by
  intro c n d hn
  exact ⟨encodeWords c n.toNat d, encodePorts_legal hn, encodeWords_length c d hn,
    fun j _ => outByte_packWords c d hn j⟩

/-- Settles O8: the three fields of R82, R83 and R84. -/
theorem encodePlacesFields : Obligations.EncodePlacesFields := by
  intro c n d s h1 h8
  have hm : (encodeWords c n.toNat d).m.toNat = n.toNat + 1 := (encodeWords_length c d h8).trans (if_neg (by omega))
  exact ⟨{ s with enc := { c := c, n := n, d := d } }, encodeWords c n.toNat d,
    congrArg Host.Outcome.next (presentPorts_legal h8 s), rfl, encodePorts_legal h8, hm,
    fun k hk => ⟨outByte_controlBit c d h8 hk, outByte_highBits c d h8 hk, outByte_lowBits c d h8 hk⟩⟩

/-- Settles O11: presenting the ports writes them and at most the mark, which only a length above 8 raises. -/
theorem encTouchesNoCsfState : Obligations.EncTouchesNoCsfState := by
  intro lvl c n d s i h
  cases h
  refine ⟨_, exec_decodePorts c n d s, presentPorts_writes s _, fun hn => ?_, fun hn => ?_⟩
  · rw [presentPorts_legal hn]
    exact ⟨rfl, Option.ne_none_iff_exists'.mpr ⟨_, encodePorts_legal hn⟩⟩
  · rw [presentPorts_illegal hn]
    exact ⟨rfl, encodePorts_illegal hn⟩

/-- Settles O12: for `n = 0` the loop writes nothing, else nothing beyond byte `n` and the last word's field of it. -/
theorem paddingIsZero : Obligations.PaddingIsZero := by
  intro c n d o ho
  obtain ⟨hn, rfl⟩ := encodePorts_mk_eq_some.mp ho
  refine ⟨fun j hj _ => ?_, fun _ _ => outByte_paddingBits c d hn⟩
  rw [encodeWords_length c d hn] at hj
  split at hj
  case isTrue h0 =>
    rw [h0]
    exact outByte_zeroBlock j
  case isFalse => exact outByte_packWords_of_lt c d hj

/-- Settles O13: the loop reads only the lanes below `n`. -/
theorem unusedLanesDoNotMatter : Obligations.UnusedLanesDoNotMatter := by
  intro c n d e h
  by_cases hn : n.toNat ≤ 8
  · rw [encodePorts_legal hn, encodePorts_legal hn, encodeWords, encodeWords, packWords_congr c h]
  · rw [encodePorts_illegal (Nat.lt_of_not_le hn), encodePorts_illegal (Nat.lt_of_not_le hn)]

/-- Settles O14: R93's formulas give the inputs back, so equal outputs have equal inputs. -/
theorem encInverse : Obligations.EncInverse := by
  refine ⟨fun c n d o h1 ho => ?_, fun c c' n d e h1 h8 heq => ?_⟩
  · obtain ⟨hn, rfl⟩ := encodePorts_mk_eq_some.mp ho
    exact ⟨unpackControl_packWords c d hn h1,
      fun k hk => ⟨unpackPayload_packWords c d hn hk, outByte_controlBit c d hn hk⟩,
      fun _ => outByte_paddingBits c d hn⟩
  · rw [encodePorts_legal h8, encodePorts_legal h8] at heq
    have hq : packWords c d n.toNat = packWords c' e n.toNat := congrArg EncOut.q (Option.some.inj heq)
    refine ⟨?_, fun k hk => ?_⟩
    · rw [← unpackControl_packWords c d h8 h1, hq, unpackControl_packWords c' e h8 h1]
    · rw [← unpackPayload_packWords c d h8 hk, hq, unpackPayload_packWords c' e h8 hk]

/-- Settles O15: the loop's last round writes bytes `n` and `n + 1` only, and byte `n + 1` was 0 before. -/
theorem encOneMoreWord : Obligations.EncOneMoreWord := by
  intro c n d o o' hn ho ho'
  obtain ⟨-, rfl⟩ := encodePorts_mk_eq_some.mp ho
  obtain ⟨-, rfl⟩ := encodePorts_mk_eq_some.mp ho'
  rw [BitVec.toNat_ofNat, BitVec.toNat_ofNat, Nat.mod_eq_of_lt (by omega), Nat.mod_eq_of_lt (by omega)]
  refine ⟨fun j hj => outByte_packWord_of_ne c d _ (by omega) (by omega), outByte_packWord_self c d _ (by omega),
    (outByte_packWord_succ c d _ hn).trans ?_⟩
  rw [outByte_packWords_of_lt c d (Nat.lt_succ_self n)]
  exact BitVec.zero_or

/-- Settles O16: the mask's law for the closed form. -/
theorem controlBitMask : Obligations.ControlBitMask := by
  intro n d o₀ o₁ h₀ h₁ j _
  obtain ⟨hn, rfl⟩ := encodePorts_mk_eq_some.mp h₀
  obtain ⟨-, rfl⟩ := encodePorts_mk_eq_some.mp h₁
  rw [encodeWords, encodeWords, outByte_packWords 1 d hn, outByte_packWords 0 d hn, closedByte_one]

/-- Settles O17: no bytes for `n = 0`; else `n + 1` bytes, which are the words and `8 - n` zeros. -/
theorem encodedBlockIsWordsEndToEnd : Obligations.EncodedBlockIsWordsEndToEnd := by
  intro c n d o ho
  obtain ⟨hn, rfl⟩ := encodePorts_mk_eq_some.mp ho
  rw [encodeWords_length c d hn]
  by_cases h0 : n.toNat = 0
  · simp [h0, validBytes, streamBits, wordsBits]
  · rw [if_neg h0, show 8 * (n.toNat + 1) - 9 * n.toNat = 8 - n.toNat by omega]
    exact streamBits_packWords c d hn

end Sys2Proof.Machine
end

section
/-! PROOFS of the framing's statements (41_framing.md) about one operation: what a request starts, the blocks it is cut
into, and what each bus event of CSF does in its phase and out of it. -/

namespace Sys2Proof.Machine

/-! ### Requests -/

/-- Settles O18: a SEND with bytes in IDLE is accepted and starts its first block. -/
theorem sendStartsRequest : Obligations.SendStartsRequest :=
  fun _ isCommand _ hidle hbytes => congrArg Host.Outcome.next (accept_bytes hidle hbytes isCommand)

/-- Settles O19: a request without a block ends in its accepting step. -/
theorem emptySendEndsAtOnce : Obligations.EmptySendEndsAtOnce :=
  fun isCommand _ hidle => congrArg Host.Outcome.next (accept_empty hidle isCommand)

/-- Settles O20: both request forms ask for acceptance, which a busy block refuses. -/
theorem busyRequestIsRefused : Obligations.BusyRequestIsRefused := by
  intro i s hbusy hi
  have refused (bytes : List Byte) (isCommand : Bool) := accept_busy hbusy bytes isCommand
  rcases hi with ⟨bytes, isCommand, rfl⟩ | ⟨byte, rfl⟩
  · exact congrArg Host.Outcome.next (refused bytes isCommand)
  · exact congrArg Host.Outcome.next (refused [byte] true)

/-- Settles O23: each of the three is a request, which a busy block refuses. -/
theorem wordsWhileBusyAreRefused : Obligations.WordsWhileBusyAreRefused := by
  intro i s hbusy hi
  have refused (bytes : List Byte) (isCommand : Bool) := accept_busy hbusy bytes isCommand
  rcases hi with ⟨p, rfl⟩ | ⟨p, rfl⟩ | ⟨v, rfl⟩
  · exact congrArg Host.Outcome.next (refused [p] true)
  · exact congrArg Host.Outcome.next (refused [p] false)
  · exact congrArg Host.Outcome.next (refused [contrastByte v] true)

/-- Only bit 0 of a byte survives a shift by 7. -/
theorem shiftLeft_seven_eq_low_bit (p : Byte) : p <<< 7 = (p &&& 1) <<< 7 := by
  ext k hk
  interval_cases k <;> simp

/-- Settles O21: both are the same request of one byte, whose block is that of one word with the control bit 0. -/
theorem sendCommandSendsOneByte : Obligations.SendCommandSendsOneByte := by
  intro byte s
  refine ⟨rfl, ?_, fun hidle => congrArg Host.Outcome.next (accept_singleton hidle byte true)⟩
  rw [encodedBytes_singleton, ← shiftLeft_seven_eq_low_bit]
  simp

/-! ### The blocks of a request (41_framing.md R101) -/

theorem flatMap_blockSlice (req : List Byte) (n : Nat) :
    (List.range n).flatMap (blockSlice req) = req.take (8 * n) := by
  induction n with
  | zero => rfl
  | succ n ih => rw [List.range_succ, List.flatMap_append, ih, Nat.mul_succ, List.take_add, List.flatMap_singleton,
      blockSlice]

theorem flatMap_blockSlice_blockCount (req : List Byte) :
    (List.range (blockCount req.length)).flatMap (blockSlice req) = req := by
  rw [flatMap_blockSlice, List.take_of_length_le]
  unfold blockCount
  omega

/-- Settles O25: the lengths are those of `blockLen`, and the first `n` blocks are the request's first `8 * n` bytes. -/
theorem blocksCoverRequest : Obligations.BlocksCoverRequest := by
  intro req
  refine ⟨fun b hb => ?_, flatMap_blockSlice_blockCount req⟩
  have hfirst : 8 * b < req.length := lt_blockCount.mp hb
  have hlen : (blockSlice req b).length = min 8 (req.length - 8 * b) := length_blockSlice req b
  refine ⟨hlen, by omega, fun hmore => ?_, fun hlast => ?_, fun k hk => ?_⟩
  · have hnext := lt_blockCount.mp hmore
    omega
  · have hover : ¬ 8 * (b + 1) < req.length := fun h => Nat.lt_irrefl _ (hlast ▸ lt_blockCount.mpr h)
    rw [← hlast, hlen]
    omega
  · rw [blockSlice, List.getElem?_take_of_lt (by omega), List.getElem?_drop]

/-! ### Bus events in their phase -/

theorem exec_csAssert {s : State} (hp : s.phase = .assert) (hc : s.cfg.hasCs = true) :
    exec .csAssert s = .next (collaboratorCall csAssertReturned s) :=
  (if_pos hp).trans (if_pos hc)

theorem exec_busWrite {s : State} (hp : s.phase = .write) :
    exec .busWrite s = .next (collaboratorCall busWriteReturned (latchBlock s)) :=
  if_pos hp

theorem exec_csDeassert {s : State} (hp : s.phase = .deassert) (hc : s.cfg.hasCs = true) :
    exec .csDeassert s = .next (collaboratorCall csDeassertReturned s) :=
  (if_pos hp).trans (if_pos hc)

/-- Settles O26: the three outcomes of the asserting pin call. -/
theorem csAssertStep : Obligations.CsAssertStep := by
  intro s hp hc
  rw [exec_csAssert hp hc]
  rcases csAssert_cases s with ⟨ha, h⟩ | ⟨rest, ha, h⟩ | ⟨rest, ha, h⟩ <;> rw [h, ha]
  · exact ⟨nofun, nofun, fun _ => rfl⟩
  · refine ⟨fun _ heq => ?_, nofun, nofun⟩
    cases heq
    rfl
  · refine ⟨nofun, fun _ heq => ?_, nofun⟩
    cases heq
    rfl

/-- Settles O29: the three outcomes of the deasserting pin call, and for `Ok` the two of the advance. -/
theorem csDeassertStep : Obligations.CsDeassertStep := by
  intro s hp hc
  rw [exec_csDeassert hp hc]
  rcases csDeassert_cases s with ⟨ha, h⟩ | ⟨rest, ha, h⟩ | ⟨rest, ha, h⟩ <;> rw [h, ha]
  · exact ⟨nofun, nofun, nofun, fun _ => rfl⟩
  · refine ⟨fun _ heq hmore => ?_, fun _ heq hlast => ?_, nofun, nofun⟩
    · cases heq
      rw [advance_more (by exact hmore)]
      simp [startPhase, hc]
    · cases heq
      rw [advance_last (by exact hlast)]
      simp
  · refine ⟨nofun, nofun, fun _ heq => ?_, nofun⟩
    cases heq
    rfl

/-- BUS_WRITE leaves on ENC's ports what it presented for the block. -/
theorem busWrite_enc (s : State) :
    (collaboratorCall busWriteReturned (latchBlock s)).enc = (latchBlock s).enc := by
  rcases busWrite_cases s with ⟨_, h⟩ | ⟨_, _, _, h⟩ | ⟨_, _, _, h⟩ | ⟨_, _, h⟩ <;> simp [h]

/-- BUS_WRITE leaves the block's encoding in the latch. -/
theorem busWrite_latch (s : State) :
    let t := collaboratorCall busWriteReturned (latchBlock s)
    t.blkQ = (latchBlock s).blkQ ∧ t.blkM = (latchBlock s).blkM := by
  rcases busWrite_cases s with ⟨_, h⟩ | ⟨_, _, _, h⟩ | ⟨_, _, _, h⟩ | ⟨_, _, h⟩ <;> simp [h]

/-- The length presented for a block fits ENC's port (41_framing.md R118). -/
theorem latchBlock_enc_n (s : State) : (latchBlock s).enc.n.toNat = blockLen s.req.length s.b := by
  have hle := blockLen_le_eight s.req.length s.b
  rw [latchBlock_enc, BitVec.toNat_ofNat, Nat.mod_eq_of_lt (by omega)]

/-- The latch holds ENC's outputs for the presented inputs (10_state.md R31). -/
theorem latchBlock_encOut (s : State) :
    ∃ o, (latchBlock s).encOut = some o ∧ (latchBlock s).blkQ = o.q ∧ (latchBlock s).blkM = o.m.toNat := by
  have hn := latchBlock_enc_n s
  have hlegal : (latchBlock s).enc.n.toNat ≤ 8 := hn ▸ blockLen_le_eight _ _
  refine ⟨_, encodePorts_legal hlegal, ?_, ?_⟩ <;> rw [hn] <;> rfl

/-- Settles O28: after the call the ports and the latch are as the block was presented and latched. -/
theorem busWriteLatchesEncOutput : Obligations.BusWriteLatchesEncOutput := by
  intro s hp hfirst
  obtain ⟨o, hout, hq, hm⟩ := latchBlock_encOut s
  obtain ⟨htq, htm⟩ := busWrite_latch s
  have henc := busWrite_enc s
  refine ⟨_, o, exec_busWrite hp, ?_, htq.trans hq, htm.trans hm, ?_, ?_, ?_⟩
  · rw [State.encOut, henc]
    exact hout
  · rw [henc, latchBlock_enc]
  · rw [henc, latchBlock_enc_n, blockLen]
  · rw [henc, latchBlock_enc_n]
    intro k hk
    have hle := blockLen_le_eight s.req.length s.b
    have hbyte : 8 * s.b + k < s.req.length := by
      unfold blockLen at hk
      omega
    rw [latchBlock_enc, lane_loadLanes _ _ _ hk hle]
    simp [hbyte]

/-- Settles O50: the block that CSF serves has 1 to 8 bytes, and a bus event raises no mark. -/
theorem csfNeverEncodesIllegalLength : Obligations.CsfNeverEncodesIllegalLength := by
  intro s t hs hp h
  obtain ⟨_, rfl⟩ := execBusWrite_next (show execBusWrite s = .next t from h)
  have hb : s.b < s.nblk := hs.busy (by simp [hp])
  have hpos := blockLen_pos (lt_blockCount.mp (hs.blocks ▸ hb))
  rw [busWrite_enc, latchBlock_enc_n]
  exact ⟨hpos, blockLen_le_eight _ _, (busWrite_callFrame s).fault⟩

/-- Settles O27: what every outcome has in common is the frame and the latch; the rest is told outcome by outcome. -/
theorem busWriteStep : Obligations.BusWriteStep := by
  intro s hp hfirst
  obtain ⟨cfg, req, c, nblk, fault, host, answers, -, -⟩ := busWrite_callFrame s
  obtain ⟨hq, hm⟩ := busWrite_latch s
  have hbytes := validBytes_latchBlock s
  refine ⟨_, exec_busWrite hp, ?_, ?_, cfg, req, c, nblk, busWrite_cs s, fault, host, answers, ?_⟩
  · rw [hq, hm, hbytes]
  · rw [hm, latchBlock_blkM_eq hfirst, length_blockSlice]
  rcases busWrite_cases s with ⟨ha, h⟩ | ⟨rest, ha, hc, h⟩ | ⟨rest, ha, hc, h⟩ | ⟨rest, ha, h⟩ <;> rw [h, ha]
  · exact ⟨fun _ => ⟨hp, rfl, rfl, rfl⟩, nofun, nofun, nofun, nofun⟩
  · refine ⟨nofun, nofun, fun _ _ => ⟨rfl, rfl, rfl, by rw [hbytes]⟩, ?_, ?_⟩ <;> simp [hc]
  · refine ⟨nofun, nofun, by simp [hc], fun _ _ hmore => ?_, fun _ _ hlast => ?_⟩
    · rw [advance_more (by exact hmore), hbytes]
      simp [startPhase, hc]
    · rw [advance_last (by exact hlast), hbytes]
      simp
  · exact ⟨nofun, fun _ => ⟨rfl, rfl, rfl, by rw [hbytes]⟩, nofun, nofun, nofun⟩

/-! ### Bus events where CSF does not make them -/

theorem pinEvent_outOfPhase {phase : Phase} {s : State} (returned : CallResult → State → State)
    (h : s.phase ≠ phase) : pinEvent phase returned s = .refused (.outOfPhase s.phase) := if_neg h

theorem pinEvent_noPin {phase : Phase} {s : State} (returned : CallResult → State → State)
    (hc : s.cfg.hasCs = false) (h : s.phase = phase) : pinEvent phase returned s = .fault .noChipSelectPin :=
  (if_pos h).trans (if_neg (by simp [hc]))

/-- Settles O30: each event asks for its phase first, and a pin event for the pin then. -/
theorem busEventsOutOfPhaseStop : Obligations.BusEventsOutOfPhaseStop :=
  fun _ => ⟨pinEvent_outOfPhase _, fun h => if_neg h, pinEvent_outOfPhase _, pinEvent_noPin _, pinEvent_noPin _⟩

/-! ### Pin calls -/

theorem pinCalls_append (cfg : Config) (es fs : List Event) :
    pinCalls cfg (es ++ fs) = pinCalls cfg es ++ pinCalls cfg fs := by
  induction es with
  | nil => rfl
  | cons e es ih => cases e <;> simp [pinCalls, ih]

theorem pinCalls_advance (cfg : Config) (s : State) : pinCalls cfg (advance s).trace = pinCalls cfg s.trace := by
  rcases advance_trace_cases s with ⟨h, _⟩ | ⟨h, _⟩ <;> simp [h, pinCalls_append, pinCalls]

/-- Without a pin an operation leaves the line and logs no pin call (41_framing.md R111). -/
theorem exec_noPin {i : Instr} {s t : State} (hc : s.cfg.hasCs = false) (h : exec i s = .next t) :
    t.cs = s.cs ∧ pinCalls s.cfg t.trace = pinCalls s.cfg s.trace := by
  rcases exec_cases h with ⟨p, _, rfl⟩ | ⟨bytes, isCommand, _, _, rfl⟩ | ⟨_, _, hpin, _⟩ | ⟨_, _, rfl⟩ |
    ⟨_, _, hpin, _⟩
  · exact ⟨presentPorts_cs s p, by rw [presentPorts_trace]⟩
  · refine ⟨accept_cs bytes isCommand s, ?_⟩
    rcases accept_cases bytes isCommand s with ⟨_, h⟩ | ⟨_, _, h⟩ | ⟨_, _, h⟩ <;> simp [h, pinCalls_append, pinCalls]
  · simp [hc] at hpin
  · refine ⟨busWrite_cs s, ?_⟩
    rcases busWrite_cases s with ⟨_, h⟩ | ⟨_, _, hpin, _⟩ | ⟨rest, _, _, h⟩ | ⟨_, _, h⟩
    · simp [h]
    · simp [hc] at hpin
    · simp [h, pinCalls_advance, pinCalls_append, pinCalls]
    · simp [h, pinCalls_append, pinCalls]
  · simp [hc] at hpin

/-- Settles O49: a step but a reset waits, takes a host input off the list or runs one operation. -/
theorem noPinCallWithoutChipSelect : Obligations.NoPinCallWithoutChipSelect := by
  intro s t hc hr h
  rw [(step_keeps hr h).cfg]
  rcases step_of_not_takesReset hr h with rfl | ⟨rest, rfl⟩ | ⟨i, h⟩ | ⟨i, rest, h⟩
  · exact ⟨rfl, rfl⟩
  · exact ⟨rfl, rfl⟩
  · exact exec_noPin hc h
  · exact exec_noPin (s := { s with host := rest }) hc h

end Sys2Proof.Machine
end

section
/-! PROOFS about the calls of a whole request and what they put on the wire (41_framing.md R103, R115, R119). -/

namespace Sys2Proof.Machine

/-! ### The events of the first blocks -/

section Blocks

variable (hasCs : Bool) (c : Bit) (req : List Byte)

@[simp] theorem blocksEvents_zero : blocksEvents hasCs c req 0 = [] := rfl

theorem blocksEvents_succ (k : Nat) :
    blocksEvents hasCs c req (k + 1) = blocksEvents hasCs c req k ++ blockEvents hasCs c (blockSlice req k) := by
  simp [blocksEvents, List.range_succ]

/-- How many calls a block makes: three with a pin, one without (41_framing.md R103, R111). -/
theorem length_blockEvents (payload : List Byte) :
    (blockEvents hasCs c payload).length = if hasCs then 3 else 1 := by
  cases hasCs <;> rfl

theorem length_blocksEvents (k : Nat) :
    (blocksEvents hasCs c req k).length = (if hasCs then 3 else 1) * k := by
  simp [blocksEvents, List.length_flatMap, length_blockEvents, Nat.mul_comm]

theorem length_callEvents : (callEvents hasCs c req).length = callCount hasCs req.length :=
  length_blocksEvents hasCs c req _

/-- The blocks of a request come in order, so the first of them are a first part of all. -/
theorem blocksEvents_prefix {j k : Nat} (h : j ≤ k) : blocksEvents hasCs c req j <+: blocksEvents hasCs c req k := by
  induction k, h using Nat.le_induction with
  | base => exact List.prefix_rfl
  | succ k _ ih => exact ih.trans (blocksEvents_succ hasCs c req k ▸ List.prefix_append _ _)

/-! ### What the wire carries -/

theorem writesOf_append (es fs : List Event) : writesOf (es ++ fs) = writesOf es ++ writesOf fs := by
  induction es with
  | nil => rfl
  | cons e es ih => cases e <;> simp [writesOf, ih]

/-- One block is one write of its encoding (41_framing.md R106). -/
theorem writesOf_blockEvents (payload : List Byte) :
    writesOf (blockEvents hasCs c payload) = [encodedBytes c payload] := by
  cases hasCs <;> rfl

theorem writesOf_blocksEvents (k : Nat) :
    writesOf (blocksEvents hasCs c req k) = (List.range k).map fun b => encodedBytes c (blockSlice req b) := by
  induction k with
  | zero => rfl
  | succ k ih => rw [blocksEvents_succ, writesOf_append, ih, writesOf_blockEvents, List.range_succ, List.map_append,
      List.map_singleton]

theorem writesOf_callEvents : writesOf (callEvents hasCs c req) =
    (List.range (blockCount req.length)).map fun b => encodedBytes c (blockSlice req b) :=
  writesOf_blocksEvents hasCs c req _

theorem length_pinCalls_blocksEvents (cfg : Config) (k : Nat) :
    (pinCalls cfg (blocksEvents hasCs c req k)).length = if hasCs then 2 * k else 0 := by
  induction k with
  | zero => cases hasCs <;> rfl
  | succ k ih =>
    rw [blocksEvents_succ, pinCalls_append, List.length_append, ih]
    cases hasCs <;> rfl

end Blocks

section Block

variable (c : Bit) {payload : List Byte} (hle : payload.length ≤ 8)
include hle

/-- Lanes loaded with a block hold it. -/
theorem take_loadLanes : (loadLanes payload 0 zeroLanes payload.length).toList.take payload.length = payload := by
  apply List.ext_getElem?
  intro k
  by_cases hk : k < payload.length
  · rw [getElem?_take_lanes _ hle hk, lane_loadLanes _ _ _ hk hle]
    simp [hk]
  · simp [Nat.le_of_not_lt hk]

variable (hpos : 1 ≤ payload.length)
include hpos

/-- The bytes written for a block are ENC's for lanes that hold it. -/
theorem encodedBytes_eq_validBytes : encodedBytes c payload =
    validBytes (packWords c (loadLanes payload 0 zeroLanes payload.length) payload.length) (payload.length + 1) := by
  rw [encodedBytes, encodeWords_length _ _ hle, if_neg (by omega)]
  rfl

/-- A block's write is one byte longer than the block (20_memory.md R46). -/
theorem length_encodedBytes : (encodedBytes c payload).length = payload.length + 1 := by
  rw [encodedBytes_eq_validBytes c hle hpos, length_validBytes _ (by omega)]

/-- The bits of a block's write are its words and the padding (40_encoder.md R90). -/
theorem streamBits_encodedBytes : streamBits (encodedBytes c payload) =
    wordsBits c payload ++ List.replicate (8 - payload.length) 0 := by
  rw [encodedBytes_eq_validBytes c hle hpos, streamBits_packWords _ _ hle, take_loadLanes hle]

end Block

theorem length_blockSlice_pos {req : List Byte} {b : Nat} (hb : b < blockCount req.length) :
    1 ≤ (blockSlice req b).length :=
  length_blockSlice req b ▸ blockLen_pos (lt_blockCount.mp hb)

theorem length_blockSlice_le (req : List Byte) (b : Nat) : (blockSlice req b).length ≤ 8 :=
  length_blockSlice req b ▸ blockLen_le_eight _ _

/-- All the writes of a request together: its bytes and one more for each block (41_framing.md R115). -/
theorem length_flatten_writesOf_callEvents (hasCs : Bool) (c : Bit) (req : List Byte) :
    (writesOf (callEvents hasCs c req)).flatten.length = req.length + blockCount req.length := by
  have hlen : ∀ b ∈ List.range (blockCount req.length),
      (encodedBytes c (blockSlice req b)).length = (blockSlice req b).length + 1 := fun b hb =>
    length_encodedBytes c (length_blockSlice_le req b) (length_blockSlice_pos (List.mem_range.mp hb))
  calc (writesOf (callEvents hasCs c req)).flatten.length
      = ((List.range (blockCount req.length)).map fun b => (blockSlice req b).length + 1).sum := by
        rw [writesOf_callEvents, List.length_flatten, List.map_map]
        exact congrArg List.sum (List.map_congr_left hlen)
    _ = ((List.range (blockCount req.length)).flatMap (blockSlice req)).length + blockCount req.length := by
        rw [List.length_flatMap, List.sum_map_add]
        simp
    _ = req.length + blockCount req.length := by rw [flatMap_blockSlice_blockCount]

/-- Settles O53: one write a block, each one byte longer than its block, and two pin calls around it. -/
theorem successfulSendCounts : Obligations.SuccessfulSendCounts := by
  intro hasCs c req cfg _
  have hbytes := length_flatten_writesOf_callEvents hasCs c req
  refine ⟨?_, hbytes, ?_, length_pinCalls_blocksEvents hasCs c req cfg _⟩
  · rw [writesOf_callEvents, List.length_map, List.length_range, blockCount]
  · rw [length_streamBits, hbytes, blockCount]

/-- Settles O54: each write is its block's encoding, which is the block's words and the padding. -/
theorem wireCarriesEveryPayloadByte : Obligations.WireCarriesEveryPayloadByte := by
  intro hasCs c req
  rw [writesOf_callEvents, List.map_map]
  exact List.map_congr_left fun b hb =>
    streamBits_encodedBytes c (length_blockSlice_le req b) (length_blockSlice_pos (List.mem_range.mp hb))

end Sys2Proof.Machine
end

section
/-! PROOFS about a request in progress (41_framing.md R103 to R110): what one collaborator call does with it, told along
the list of all its calls. -/

namespace Sys2Proof.Machine

theorem startPhase_pin {cfg : Config} (hc : cfg.hasCs = true) : startPhase cfg = .assert := if_pos hc

theorem startPhase_noPin {cfg : Config} (hc : cfg.hasCs = false) : startPhase cfg = .write := if_neg (by simp [hc])

theorem startPhase_ne_idle (cfg : Config) : startPhase cfg ≠ .idle := by
  unfold startPhase
  split <;> simp

theorem accept_answers (bytes : List Byte) (isCommand : Bool) (s : State) :
    (accept bytes isCommand s).answers = s.answers := by
  rcases accept_cases bytes isCommand s with ⟨_, h⟩ | ⟨_, _, h⟩ | ⟨_, _, h⟩ <;> rw [h]

/-! ### A request in progress and the calls it has made -/

/-- The part of the invariant that a request in progress needs: it holds from the accepting step on, whatever the latch
and the line held before (10_state.md R24, R25, R27, R29). -/
structure State.Serving (s : State) : Prop where
  busy : s.phase ≠ .idle
  blocks : s.nblk = blockCount s.req.length
  index : s.b < s.nblk
  noPin : s.cfg.hasCs = false → s.phase = .write
  line : s.cfg.hasCs = true → s.phase = .write → s.cs = .asserted

theorem State.Inv.serving {s : State} (h : s.Inv) (hp : s.phase ≠ .idle) : s.Serving where
  busy := hp
  blocks := h.blocks
  index := h.busy hp
  noPin := fun hc => (h.noPin hc).resolve_left hp
  line := fun hc hw => h.line hc (.inl hw)

/-- At the start of a block a request in progress needs only a block to serve. -/
theorem State.Serving.of_startPhase {s : State} (hp : s.phase = startPhase s.cfg)
    (blocks : s.nblk = blockCount s.req.length) (index : s.b < s.nblk) : s.Serving where
  busy := hp ▸ startPhase_ne_idle s.cfg
  blocks := blocks
  index := index
  noPin := fun hc => hp.trans (startPhase_noPin hc)
  line := fun hc hw => by simp [hp, startPhase_pin hc] at hw

/-- The calls the request in progress makes when none fails. -/
def State.calls (s : State) : List Event := callEvents s.cfg.hasCs s.c s.req

/-- The events of the calls the request in progress has made, each `Ok`. -/
def State.callsMade (s : State) : List Event :=
  blocksEvents s.cfg.hasCs s.c s.req s.b ++
    match s.phase with
    | .idle => []
    | .assert => []
    | .write => if s.cfg.hasCs then [.cs .assert .ok] else []
    | .deassert => [.cs .assert .ok, .write (encodedBytes s.c (blockSlice s.req s.b)) .ok]

theorem callsMade_assert {s : State} (hp : s.phase = .assert) :
    s.callsMade = blocksEvents s.cfg.hasCs s.c s.req s.b := by
  simp [State.callsMade, hp]

theorem callsMade_write {s : State} (hp : s.phase = .write) :
    s.callsMade = blocksEvents s.cfg.hasCs s.c s.req s.b ++ if s.cfg.hasCs then [.cs .assert .ok] else [] := by
  simp [State.callsMade, hp]

theorem callsMade_deassert {s : State} (hp : s.phase = .deassert) :
    s.callsMade = blocksEvents s.cfg.hasCs s.c s.req s.b ++
      [.cs .assert .ok, .write (encodedBytes s.c (blockSlice s.req s.b)) .ok] := by
  simp [State.callsMade, hp]

/-- At the start of a block the calls made are those of the blocks before it. -/
theorem callsMade_startPhase {s : State} (hp : s.phase = startPhase s.cfg) :
    s.callsMade = blocksEvents s.cfg.hasCs s.c s.req s.b := by
  cases hc : s.cfg.hasCs
  · simp [callsMade_write (hp.trans (startPhase_noPin hc)), hc]
  · rw [callsMade_assert (hp.trans (startPhase_pin hc)), hc]

/-- The events of the request in progress are its beginning and its calls so far. -/
theorem openEvents_eq {s : State} (hp : s.phase ≠ .idle) :
    s.openEvents = .callBegin s.req.length s.c :: s.callsMade := by
  cases h : s.phase
  · exact absurd h hp
  · simp [State.openEvents, State.callsMade, h]
  · simp [State.openEvents, State.callsMade, h]
  · simp [State.openEvents, State.callsMade, h]

theorem openEvents_idle {s : State} (hp : s.phase = .idle) : s.openEvents = [] := by
  simp [State.openEvents, hp]

/-! ### One collaborator call -/

/-- What one collaborator call does with the request in progress at `s`, `e` the event of the call it makes next when
that returns `Ok`: it stalls, goes on, finishes the request, or fails (41_framing.md R105 to R110). -/
inductive State.CallTo (s t : State) : Prop where
  | stalled (ha : s.answers = []) (phase : t.phase = s.phase) (b : t.b = s.b) (trace : t.trace = s.trace)
      (result : t.result = s.result) (cs : t.cs = s.cs)
  | goesOn {e : Event} {rest : List CallResult} (ha : s.answers = .ok :: rest) (serving : t.Serving)
      (made : t.callsMade = s.callsMade ++ [e]) (trace : t.trace = s.trace ++ [e]) (result : t.result = s.result)
      (cs : s.cfg.hasCs = false → t.cs = s.cs)
  | finishes {e : Event} {rest : List CallResult} (ha : s.answers = .ok :: rest) (made : s.callsMade ++ [e] = s.calls)
      (phase : t.phase = .idle) (trace : t.trace = s.trace ++ [e, .callEnd .ok]) (result : t.result = .ok)
      (cs : t.cs = if s.cfg.hasCs then .deasserted else s.cs)
  | fails {e : Event} {rest : List CallResult} (ha : s.answers = .err :: rest) (made : s.callsMade ++ [e] <+: s.calls)
      (phase : t.phase = .idle) (trace : t.trace = s.trace ++ [e.failed, .callEnd .busError])
      (result : t.result = .busError) (cs : t.cs = if s.phase = .write then s.cs else .unknown)

/-- The calls up to the end of the block being served are calls of the request. -/
theorem State.Serving.blocksEvents_prefix_calls {s : State} (hs : s.Serving) :
    blocksEvents s.cfg.hasCs s.c s.req (s.b + 1) <+: s.calls :=
  blocksEvents_prefix _ _ _ (hs.blocks ▸ hs.index)

/-- The last call of a block, after which CSF advances. -/
theorem State.Serving.callTo_advance {s u : State} {e : Event} {rest : List CallResult} (hs : s.Serving)
    (ha : s.answers = .ok :: rest)
    (made : s.callsMade ++ [e] = blocksEvents s.cfg.hasCs s.c s.req (s.b + 1)) (cfg : u.cfg = s.cfg)
    (req : u.req = s.req) (c : u.c = s.c) (nblk : u.nblk = s.nblk) (b : u.b = s.b) (result : u.result = s.result)
    (trace : u.trace = s.trace ++ [e]) (cs : u.cs = if s.cfg.hasCs then .deasserted else s.cs) :
    s.CallTo (advance u) := by
  rcases advance_cases u with ⟨hmore, h⟩ | ⟨hlast, h⟩
  · have hp : (advance u).phase = startPhase (advance u).cfg := by simp [h]
    refine .goesOn ha (.of_startPhase hp (by simpa [nblk, req] using hs.blocks) (by simpa using hmore)) ?_
      (by simpa [h]) (by simpa [h]) (fun hc => by simp [cs, hc])
    rw [callsMade_startPhase hp, made]
    simp [cfg, req, c, b]
  · refine .finishes (e := e) ha ?_ (by simp [h]) (by simp [h, trace]) (by simp [h]) (by simpa)
    have hall : s.b + 1 = s.nblk := Nat.le_antisymm hs.index (by rwa [b, nblk] at hlast)
    rw [made, hall, hs.blocks]
    rfl

theorem State.Serving.csAssert_callTo {s : State} (hs : s.Serving) (hp : s.phase = .assert)
    (hc : s.cfg.hasCs = true) : s.CallTo (collaboratorCall csAssertReturned s) := by
  have hmade := callsMade_assert hp
  rcases csAssert_cases s with ⟨ha, h⟩ | ⟨rest, ha, h⟩ | ⟨rest, ha, h⟩ <;> rw [h]
  · exact .stalled ha rfl rfl rfl rfl rfl
  · refine .goesOn ha ⟨nofun, hs.blocks, hs.index, fun _ => rfl, fun _ _ => rfl⟩ ?_ rfl rfl (by simp [hc])
    rw [hmade, callsMade_write rfl, if_pos hc]
  · refine .fails (e := .cs .assert .ok) ha (List.IsPrefix.trans ?_ hs.blocksEvents_prefix_calls) rfl rfl rfl
      (by simp [hp])
    rw [hmade, blocksEvents_succ, List.prefix_append_right_inj]
    simp [blockEvents, hc]

theorem State.Serving.busWrite_callTo {s : State} (hs : s.Serving) (hp : s.phase = .write) :
    s.CallTo (collaboratorCall busWriteReturned (latchBlock s)) := by
  have hmade := callsMade_write hp
  have hbytes := validBytes_latchBlock s
  rcases busWrite_cases s with ⟨ha, h⟩ | ⟨rest, ha, hc, h⟩ | ⟨rest, ha, hc, h⟩ | ⟨rest, ha, h⟩ <;> rw [h]
  · exact .stalled ha rfl rfl rfl rfl rfl
  · refine .goesOn ha ⟨nofun, hs.blocks, hs.index, by simp [hc], nofun⟩ ?_ (by rw [hbytes]) rfl (fun _ => rfl)
    rw [hmade, callsMade_deassert rfl, if_pos hc]
    simp
  · refine hs.callTo_advance ha ?_ rfl rfl rfl rfl rfl rfl (by rw [hbytes]) (by simp [hc])
    simp [hmade, blocksEvents_succ, blockEvents, hc]
  · refine .fails (e := .write (encodedBytes s.c (blockSlice s.req s.b)) .ok) ha
      (List.IsPrefix.trans ?_ hs.blocksEvents_prefix_calls) rfl (by rw [hbytes]; rfl) rfl (by simp [hp])
    rw [hmade, blocksEvents_succ, List.append_assoc, List.prefix_append_right_inj]
    cases hc : s.cfg.hasCs <;> simp [blockEvents]

theorem State.Serving.csDeassert_callTo {s : State} (hs : s.Serving) (hp : s.phase = .deassert)
    (hc : s.cfg.hasCs = true) : s.CallTo (collaboratorCall csDeassertReturned s) := by
  have hmade : s.callsMade ++ [.cs .deassert .ok] = blocksEvents s.cfg.hasCs s.c s.req (s.b + 1) := by
    simp [callsMade_deassert hp, blocksEvents_succ, blockEvents, hc]
  rcases csDeassert_cases s with ⟨ha, h⟩ | ⟨rest, ha, h⟩ | ⟨rest, ha, h⟩ <;> rw [h]
  · exact .stalled ha rfl rfl rfl rfl rfl
  · exact hs.callTo_advance ha hmade rfl rfl rfl rfl rfl rfl rfl (by simp [hc])
  · exact .fails (e := .cs .deassert .ok) ha (hmade ▸ hs.blocksEvents_prefix_calls) rfl rfl rfl (by simp [hp])

/-- A step of a request in progress that nothing of the host's reaches is one collaborator call. -/
theorem State.Serving.step_call {s : State} (hs : s.Serving) (hr : s.hostReady = none) :
    ∃ t, step s = .next t ∧ s.CallFrame t ∧ s.CallTo t := by
  have hpin (hne : s.phase ≠ .write) : s.cfg.hasCs = true := by
    by_contra hc
    exact hne (hs.noPin (by simpa using hc))
  rw [Machine.step_call hr]
  cases hp : s.phase
  · exact absurd hp hs.busy
  · have hc := hpin (by simp [hp])
    exact ⟨_, exec_csAssert hp hc, csAssert_callFrame s, hs.csAssert_callTo hp hc⟩
  · exact ⟨_, exec_busWrite hp, busWrite_callFrame s, hs.busWrite_callTo hp⟩
  · have hc := hpin (by simp [hp])
    exact ⟨_, exec_csDeassert hp hc, csDeassert_callFrame s, hs.csDeassert_callTo hp hc⟩

end Sys2Proof.Machine
end

section
/-! PROOFS of the framing of the trace (41_framing.md R103, R104, R109, 20_memory.md R51) and of the call that never
returns (R110). -/

namespace Sys2Proof.Machine

/-! ### The events of a finished request -/

theorem events_ok (hasCs : Bool) (req : List Byte) (c : Bit) :
    Served.events hasCs { req := req, c := c, failedCall := none } =
      .callBegin req.length c :: callEvents hasCs c req ++ [.callEnd .ok] := rfl

/-- An empty request begins and ends (41_framing.md R102). -/
theorem events_empty (hasCs : Bool) (c : Bit) :
    Served.events hasCs { req := [], c := c, failedCall := none } = [.callBegin 0 c, .callEnd .ok] := by
  rw [events_ok, callEvents, List.length_nil, blockCount_zero, blocksEvents_zero]
  rfl

/-- A request whose call after those `made` failed. -/
theorem events_failed {hasCs : Bool} {req made : List _} {c : Bit} {e : Event}
    (h : made ++ [e] <+: callEvents hasCs c req) :
    Served.events hasCs { req := req, c := c, failedCall := some made.length } =
      .callBegin req.length c :: made ++ [e.failed, .callEnd .busError] := by
  obtain ⟨more, hmore⟩ := h
  simp [Served.events, Served.result, ← hmore]

/-! ### The framing of the trace -/

/-- The framing speaks of these fields only. -/
theorem State.Framed.of_fields {s t : State} (h : s.Framed) (cfg : t.cfg = s.cfg) (phase : t.phase = s.phase)
    (req : t.req = s.req) (c : t.c = s.c) (b : t.b = s.b) (trace : t.trace = s.trace) (result : t.result = s.result) :
    t.Framed := by
  have hopen : t.openEvents = s.openEvents := by simp only [State.openEvents, cfg, phase, req, c, b]
  obtain ⟨history, hvalid, htrace, hresult⟩ := h
  exact ⟨history, cfg ▸ hvalid, by rw [trace, htrace, cfg, hopen], result.trans hresult⟩

/-- The request in progress, or an empty one, ends: its events complete those of a finished request `v`. -/
theorem State.Framed.finish {s t : State} {es : List Event} (h : s.Framed) (v : Served)
    (hv : v.Valid s.cfg.hasCs) (hes : s.openEvents ++ es = v.events s.cfg.hasCs) (cfg : t.cfg = s.cfg)
    (phase : t.phase = .idle) (trace : t.trace = s.trace ++ es) (result : t.result = v.result) : t.Framed := by
  obtain ⟨history, hvalid, htrace, _⟩ := h
  refine ⟨history ++ [v], ?_, ?_, ?_⟩
  · rw [cfg]
    simpa [or_imp, forall_and] using ⟨hvalid, hv⟩
  · rw [trace, htrace, cfg, openEvents_idle phase, List.append_assoc, hes]
    simp
  · simp [lastResult, result]

theorem accept_framed {s : State} (h : s.Framed) (bytes : List Byte) (isCommand : Bool) :
    (accept bytes isCommand s).Framed := by
  rcases accept_cases bytes isCommand s with ⟨_, ht⟩ | ⟨hp, _, ht⟩ | ⟨hp, hb, ht⟩ <;> rw [ht]
  · exact h.of_fields rfl rfl rfl rfl rfl rfl rfl
  · refine h.finish { req := [], c := if isCommand then 0 else 1, failedCall := none } nofun ?_ rfl hp rfl rfl
    rw [openEvents_idle hp, events_empty]
    rfl
  · obtain ⟨history, hvalid, htrace, hresult⟩ := h
    refine ⟨history, hvalid, ?_, hresult⟩
    rw [openEvents_eq (startPhase_ne_idle s.cfg), callsMade_startPhase rfl, blocksEvents_zero]
    simpa [openEvents_idle hp] using htrace

/-- A collaborator call keeps the framing: it adds its event to the open request, or ends that one. -/
theorem State.Serving.framed_of_call {s t : State} (hs : s.Serving) (h : s.Framed) (hf : s.CallFrame t)
    (hc : s.CallTo t) : t.Framed := by
  cases hc with
  | stalled _ phase b trace result _ => exact h.of_fields hf.cfg phase hf.req hf.c b trace result
  | goesOn _ serving made trace result _ =>
    obtain ⟨history, hvalid, htrace, hresult⟩ := h
    refine ⟨history, hf.cfg ▸ hvalid, ?_, result.trans hresult⟩
    rw [trace, htrace, openEvents_eq hs.busy, openEvents_eq serving.busy, made, hf.req, hf.c, hf.cfg]
    simp
  | finishes _ made phase trace result _ =>
    refine h.finish { req := s.req, c := s.c, failedCall := none } nofun ?_ hf.cfg phase trace result
    rw [events_ok, openEvents_eq hs.busy, ← State.calls, ← made]
    simp
  | fails _ made phase trace result _ =>
    refine h.finish { req := s.req, c := s.c, failedCall := some s.callsMade.length } ?_ ?_ hf.cfg phase trace result
    · intro k hk
      cases hk
      exact Nat.lt_of_lt_of_le (by simp) made.length_le
    · rw [events_failed made, openEvents_eq hs.busy]

theorem exec_framed {i : Instr} {s t : State} (hs : s.Inv) (hf : s.Framed) (h : exec i s = .next t) : t.Framed := by
  rcases exec_cases h with ⟨p, _, rfl⟩ | ⟨bytes, isCommand, _, _, rfl⟩ | ⟨_, hp, hc, rfl⟩ | ⟨_, hp, rfl⟩ |
    ⟨_, hp, hc, rfl⟩
  · rw [presentPorts_writes]
    exact hf.of_fields rfl rfl rfl rfl rfl rfl rfl
  · exact accept_framed hf bytes isCommand
  · have hserving := hs.serving (by simp [hp])
    exact hserving.framed_of_call hf (csAssert_callFrame s) (hserving.csAssert_callTo hp hc)
  · have hserving := hs.serving (by simp [hp])
    exact hserving.framed_of_call hf (busWrite_callFrame s) (hserving.busWrite_callTo hp)
  · have hserving := hs.serving (by simp [hp])
    exact hserving.framed_of_call hf (csDeassert_callFrame s) (hserving.csDeassert_callTo hp hc)

/-- Settles O39: a reset empties the history, a wait leaves it, and every operation keeps the trace framed. -/
theorem stepKeepsTraceFramed : Obligations.StepKeepsTraceFramed := by
  intro s t hs hf h
  by_cases hr : s.TakesReset
  · obtain ⟨_, rest, rfl⟩ := step_of_takesReset hr h
    exact ⟨[], by simp, rfl, rfl⟩
  · rcases step_of_not_takesReset hr h with rfl | ⟨rest, rfl⟩ | ⟨i, h⟩ | ⟨i, rest, h⟩
    · exact hf
    · exact hf.of_fields rfl rfl rfl rfl rfl rfl rfl
    · exact exec_framed hs hf h
    · exact exec_framed (s := { s with host := rest }) (hs.of_fields rfl rfl rfl rfl rfl rfl rfl rfl rfl)
        (hf.of_fields rfl rfl rfl rfl rfl rfl rfl) h

/-! ### A call that does not return (41_framing.md R110) -/

/-- A stalled step leaves a request in progress where it is. -/
theorem State.CallTo.stalled_fields {s t : State} (h : s.CallTo t) (ha : s.answers = []) :
    t.phase = s.phase ∧ t.b = s.b ∧ t.trace = s.trace ∧ t.result = s.result ∧ t.cs = s.cs := by
  cases h with
  | stalled _ phase b trace result cs => exact ⟨phase, b, trace, result, cs⟩
  | goesOn h => simp [ha] at h
  | finishes h => simp [ha] at h
  | fails h => simp [ha] at h

/-- Settles O55: by induction on the number of steps, each of which is the stalled call again. -/
theorem stalledCallStaysForEver : Obligations.StalledCallStaysForEver := by
  intro s hs hp hq ha k
  induction k generalizing s with
  | zero => exact ⟨s, rfl, rfl, rfl, rfl, rfl, rfl, ha⟩
  | succ k ih =>
    obtain ⟨t, hstep, hframe, hcall⟩ := (hs.serving hp).step_call (hostReady_quiet hq hp)
    obtain ⟨hphase, hb, htrace, hresult, hcs⟩ := hcall.stalled_fields ha
    have hquiet : t.Quiet := by
      rw [State.Quiet, hframe.host]
      exact hq
    obtain ⟨u, hrun, hphase', hb', htrace', hresult', hcs', ha'⟩ :=
      ih t (step_inv hs hstep) (hphase ▸ hp) hquiet (by simp [hframe.answers, ha])
    exact ⟨u, (runSteps_succ hstep).trans hrun, hphase'.trans hphase, hb'.trans hb, htrace'.trans htrace,
      hresult'.trans hresult, hcs'.trans hcs, ha'⟩

end Sys2Proof.Machine
end

section
/-! PROOFS about the run of a whole SEND (41_framing.md R109, R114): the calls before the last or the failing one go on,
and that one ends the request. -/

namespace Sys2Proof.Machine

/-- Where the calls of a request in progress stand: how many it has made, by phase. -/
theorem State.Serving.length_callsMade {s : State} (hs : s.Serving) :
    (s.cfg.hasCs = false ∧ s.phase = .write ∧ s.callsMade.length = s.b) ∨
    (s.cfg.hasCs = true ∧ ((s.phase = .assert ∧ s.callsMade.length = 3 * s.b) ∨
      (s.phase = .write ∧ s.callsMade.length = 3 * s.b + 1) ∨
      (s.phase = .deassert ∧ s.callsMade.length = 3 * s.b + 2))) := by
  cases hc : s.cfg.hasCs
  · have hp := hs.noPin hc
    exact .inl ⟨rfl, hp, by simp [callsMade_write hp, length_blocksEvents, hc]⟩
  · refine .inr ⟨rfl, ?_⟩
    cases hp : s.phase
    · exact absurd hp hs.busy
    · exact .inl ⟨rfl, by simp [callsMade_assert hp, length_blocksEvents, hc]⟩
    · exact .inr (.inl ⟨rfl, by simp [callsMade_write hp, length_blocksEvents, hc]⟩)
    · exact .inr (.inr ⟨rfl, by simp [callsMade_deassert hp, length_blocksEvents, hc]⟩)

/-- A request in progress has a call to make. -/
theorem State.Serving.length_callsMade_lt {s : State} (hs : s.Serving) : s.callsMade.length < s.calls.length := by
  have hb : s.b < blockCount s.req.length := hs.blocks ▸ hs.index
  rw [State.calls, length_callEvents, callCount]
  rcases hs.length_callsMade with ⟨hc, _, h⟩ | ⟨hc, ⟨_, h⟩ | ⟨_, h⟩ | ⟨_, h⟩⟩ <;> simp [hc] <;> omega

/-- `u` is in the midst of the request `bytes` with control bit `ctrl` that was sent in `s`, alone and without a failure
so far. -/
structure State.Sending (s : State) (bytes : List Byte) (ctrl : Bit) (u : State) : Prop where
  serving : u.Serving
  cfg : u.cfg = s.cfg
  req : u.req = bytes
  c : u.c = ctrl
  fault : u.fault = s.fault
  host : u.host = []
  trace : u.trace = s.trace ++ .callBegin bytes.length ctrl :: u.callsMade
  lineKept : s.cfg.hasCs = false → u.cs = s.cs

section Sending

variable {s u : State} {bytes : List Byte} {c : Bit} {rest : List CallResult}

theorem State.Sending.calls_eq (h : s.Sending bytes c u) : u.calls = callEvents s.cfg.hasCs c bytes := by
  rw [State.calls, h.cfg, h.c, h.req]

theorem State.Sending.step_call (h : s.Sending bytes c u) : ∃ t, step u = .next t ∧ u.CallFrame t ∧ u.CallTo t :=
  h.serving.step_call (hostReady_quiet (by simp [State.Quiet, h.host]) h.serving.busy)

/-- A call that returns `Ok` and is not the last one leads to the next call. -/
theorem State.Sending.goesOn (h : s.Sending bytes c u) (ha : u.answers = .ok :: rest)
    (hmore : u.callsMade.length + 1 < callCount s.cfg.hasCs bytes.length) :
    ∃ t, step u = .next t ∧ s.Sending bytes c t ∧ t.callsMade.length = u.callsMade.length + 1 ∧ t.answers = rest := by
  obtain ⟨t, hstep, hf, hcall⟩ := h.step_call
  refine ⟨t, hstep, ?_⟩
  cases hcall with
  | stalled hno => simp [ha] at hno
  | fails herr => simp [ha] at herr
  | finishes _ made =>
    have hlen := congrArg List.length made
    rw [h.calls_eq, length_callEvents, List.length_append, List.length_singleton] at hlen
    omega
  | goesOn _ serving made trace _ cs =>
    refine ⟨⟨serving, hf.cfg.trans h.cfg, hf.req.trans h.req, hf.c.trans h.c, hf.fault.trans h.fault,
      hf.host.trans h.host, by simp [trace, made, h.trace], fun hc => ?_⟩, by simp [made], by simp [hf.answers, ha]⟩
    exact (cs (h.cfg ▸ hc)).trans (h.lineKept hc)

/-- The last call, if it returns `Ok`, ends the request with OK. -/
theorem State.Sending.finishes (h : s.Sending bytes c u) (ha : u.answers = .ok :: rest)
    (hlast : u.callsMade.length + 1 = callCount s.cfg.hasCs bytes.length) :
    ∃ t, step u = .next t ∧
      t.trace = s.trace ++ Served.events s.cfg.hasCs { req := bytes, c := c, failedCall := none } ∧
      t.phase = .idle ∧ t.result = .ok ∧ t.answers = rest ∧ t.fault = s.fault ∧
      t.cs = if s.cfg.hasCs then .deasserted else s.cs := by
  obtain ⟨t, hstep, hf, hcall⟩ := h.step_call
  refine ⟨t, hstep, ?_⟩
  cases hcall with
  | stalled hno => simp [ha] at hno
  | fails herr => simp [ha] at herr
  | goesOn _ serving made =>
    have hlt := serving.length_callsMade_lt
    rw [State.calls, length_callEvents, hf.cfg, hf.req, h.cfg, h.req, made, List.length_append,
      List.length_singleton] at hlt
    omega
  | finishes _ made phase trace result cs =>
    refine ⟨?_, phase, result, by simp [hf.answers, ha], hf.fault.trans h.fault, ?_⟩
    · rw [trace, h.trace, events_ok, ← h.calls_eq, ← made]
      simp
    · rw [cs, h.cfg]
      split
      · rfl
      · exact h.lineKept (Bool.eq_false_of_not_eq_true ‹_›)

/-- A call that returns `Err` ends the request with BUS_ERROR, and its place among the calls says what the line is. -/
theorem State.Sending.fails (h : s.Sending bytes c u) (ha : u.answers = .err :: rest) :
    ∃ t, step u = .next t ∧
      t.trace = s.trace ++
        Served.events s.cfg.hasCs { req := bytes, c := c, failedCall := some u.callsMade.length } ∧
      t.phase = .idle ∧ t.result = .busError ∧ t.answers = rest ∧ t.fault = s.fault ∧
      t.cs = if s.cfg.hasCs then (if u.callsMade.length % 3 = 1 then .asserted else .unknown) else s.cs := by
  obtain ⟨t, hstep, hf, hcall⟩ := h.step_call
  refine ⟨t, hstep, ?_⟩
  cases hcall with
  | stalled hno => simp [ha] at hno
  | goesOn hok => simp [ha] at hok
  | finishes hok => simp [ha] at hok
  | fails _ made phase trace result cs =>
    refine ⟨?_, phase, result, by simp [hf.answers, ha], hf.fault.trans h.fault, ?_⟩
    · rw [trace, h.trace, events_failed (h.calls_eq ▸ made)]
      simp
    · rw [cs, ← h.cfg]
      rcases h.serving.length_callsMade with ⟨hc, hp, _⟩ | ⟨hc, ⟨hp, hk⟩ | ⟨hp, hk⟩ | ⟨hp, hk⟩⟩
      · simp [hp, hc, h.lineKept (h.cfg ▸ hc)]
      · simp [hp, hc, hk]
      · simp [hp, hc, hk, Nat.add_mod, h.serving.line hc hp]
      · simp [hp, hc, hk, Nat.add_mod]

/-- `n` calls that return `Ok` and are not the last ones; one more step is the call after them. -/
theorem State.Sending.run {n : Nat} (h : s.Sending bytes c u) (ha : u.answers = List.replicate n .ok ++ rest)
    (hmore : u.callsMade.length + n < callCount s.cfg.hasCs bytes.length) :
    ∃ v, s.Sending bytes c v ∧ v.callsMade.length = u.callsMade.length + n ∧ v.answers = rest ∧
      ∀ w, step v = .next w → runSteps (n + 1) u = .next w := by
  induction n generalizing u with
  | zero => exact ⟨u, h, rfl, ha, fun w hw => runSteps_succ hw⟩
  | succ n ih =>
    obtain ⟨t, hstep, ht, hlen, hta⟩ := h.goesOn ha (by omega)
    obtain ⟨v, hv, hvlen, hva, hrun⟩ := ih ht hta (by omega)
    exact ⟨v, hv, by omega, hva, fun w hw => (runSteps_succ hstep).trans (hrun w hw)⟩

theorem blockCount_pos (hb : bytes ≠ []) : 0 < blockCount bytes.length :=
  lt_blockCount.mpr (List.length_pos_iff.mpr hb)

theorem bytes_ne_nil_of_lt_callCount {hasCs : Bool} {k : Nat} (h : k < callCount hasCs bytes.length) : bytes ≠ [] := by
  rintro rfl
  simp [callCount] at h

theorem callCount_pos (hasCs : Bool) (hb : bytes ≠ []) : 0 < callCount hasCs bytes.length := by
  cases hasCs <;> simp [callCount, blockCount_pos hb]

/-- The accepting step of a request with bytes, sent alone. -/
theorem accept_sending (hidle : s.phase = .idle) (hhost : s.host = []) (hb : bytes ≠ []) (isCommand : Bool) :
    s.Sending bytes (if isCommand then 0 else 1) (accept bytes isCommand s) ∧
      (accept bytes isCommand s).callsMade = [] := by
  rw [accept_bytes hidle hb]
  refine ⟨⟨.of_startPhase rfl rfl (blockCount_pos hb), rfl, rfl, rfl, rfl, hhost, ?_, fun _ => rfl⟩,
    callsMade_startPhase rfl⟩
  rw [callsMade_startPhase rfl]
  rfl

end Sending

/-- Settles O51: all calls but the last go on, and the last one finishes. -/
theorem sendRunsToOk : Obligations.SendRunsToOk := by
  intro bytes isCommand s rest hidle hhost ha
  by_cases hb : bytes = []
  · subst hb
    refine ⟨_, _, congrArg Host.Outcome.next (accept_empty hidle isCommand), rfl, ?_, hidle, rfl, ?_, rfl, by simp⟩
    · rw [events_empty]
    · simpa [callCount] using ha
  · obtain ⟨n, hn⟩ := Nat.exists_eq_add_one.mpr (callCount_pos s.cfg.hasCs hb)
    obtain ⟨hsend, hmade⟩ := accept_sending hidle hhost hb isCommand
    have hta : (accept bytes isCommand s).answers = List.replicate n .ok ++ .ok :: rest := by
      rw [accept_answers, ha, hn, List.replicate_succ', List.append_assoc]
      rfl
    obtain ⟨v, hv, hlen, hva, hrun⟩ := hsend.run hta (by simp [hmade, hn])
    obtain ⟨w, hw, htrace, hphase, hresult, hanswers, hfault, hcs⟩ := hv.finishes hva (by simp [hlen, hmade, hn])
    exact ⟨_, w, rfl, hn ▸ hrun w hw, htrace, hphase, hresult, hanswers, hfault, by simpa [hb] using hcs⟩

/-- Settles O52: the calls before the failing one go on, and that one fails. -/
theorem sendStopsAtFirstFailure : Obligations.SendStopsAtFirstFailure := by
  intro bytes isCommand s k rest hidle hhost hk ha
  obtain ⟨hsend, hmade⟩ := accept_sending hidle hhost (bytes_ne_nil_of_lt_callCount hk) isCommand
  obtain ⟨v, hv, hlen, hva, hrun⟩ := hsend.run ((accept_answers bytes isCommand s).trans ha) (by simpa [hmade])
  have hplace : v.callsMade.length = k := by simpa [hmade] using hlen
  obtain ⟨w, hw, hend⟩ := hv.fails hva
  rw [hplace] at hend
  exact ⟨_, w, rfl, hrun w hw, hend⟩

end Sys2Proof.Machine
end

section
/-! PROOFS about what raises the block's exceptions (60_exceptions.md): the fault marks of R133 and the one error,
BusError, of R131. -/

namespace Sys2Proof.Machine

/-! ### The fault marks (60_exceptions.md R133) -/

/-- Every bus event is one collaborator call. -/
theorem exec_busEvent_callFrame {i : Instr} {s t : State} (hi : i.format = .busEvent) (h : exec i s = .next t) :
    s.CallFrame t := by
  rcases exec_cases h with ⟨_, hport, _⟩ | ⟨_, _, _, hrequest, _⟩ | ⟨_, _, _, rfl⟩ | ⟨_, _, rfl⟩ | ⟨_, _, _, rfl⟩
  · simp [hi] at hport
  · exact absurd hi hrequest
  · exact csAssert_callFrame s
  · exact busWrite_callFrame s
  · exact csDeassert_callFrame s

/-- Of ENC's operations ENCODE_ILLEGAL raises its mark, and the two with a legal length raise none. -/
theorem exec_encoderPort_fault {i : Instr} {s t : State} (hw : i.WellFormed) (hi : i.format = .encoderPort)
    (h : exec i s = .next t) :
    t.fault = s.fault ∨ ∃ c n d, i = .encodeIllegal c n d ∧ t.fault = s.fault.add .illegalLength := by
  cases i with
  | encode c n d =>
    injection h with h
    have hlegal := presentPorts_legal (p := ⟨c, n, d⟩) (wellFormed_encode.mp hw).2 s
    exact .inl (by rw [← h, hlegal])
  | encodeEmpty c d =>
    injection h with h
    have hlegal := presentPorts_legal (p := ⟨c, 0, d⟩) (Nat.zero_le 8) s
    exact .inl (by rw [← h, hlegal])
  | encodeIllegal c n d =>
    injection h with h
    have hlong := presentPorts_illegal (p := ⟨c, n, d⟩) (wellFormed_encodeIllegal.mp hw) s
    exact .inr ⟨c, n, d, rfl, by rw [← h, hlong]⟩
  | _ => cases hi

/-- An operation of the table that changes the marks is ENCODE_ILLEGAL or an overlapping request. -/
theorem exec_fault_cases {i : Instr} {s t : State} (hw : i.WellFormed) (h : exec i s = .next t)
    (hne : t.fault ≠ s.fault) :
    (∃ c n d, i = .encodeIllegal c n d ∧ t.fault = s.fault.add .illegalLength) ∨
    (s.phase ≠ .idle ∧ i.format ≠ .encoderPort ∧ t.fault = s.fault.add .busyRequest) := by
  rcases exec_cases h with ⟨_, hport, _⟩ | ⟨bytes, isCommand, hport, _, rfl⟩ | ⟨rfl, _⟩ | ⟨rfl, _⟩ | ⟨rfl, _⟩
  · exact .inl ((exec_encoderPort_fault hw hport h).resolve_left hne)
  · rcases accept_cases bytes isCommand s with ⟨hbusy, ht⟩ | ⟨_, _, ht⟩ | ⟨_, _, ht⟩
    · exact .inr ⟨hbusy, hport, by rw [ht]⟩
    · exact absurd (congrArg State.fault ht) hne
    · exact absurd (congrArg State.fault ht) hne
  all_goals exact absurd (exec_busEvent_callFrame rfl h).fault hne

/-- Settles O43: a call of CSF's own raises no mark, and what the decoder reads from a presented form is an operation of
the table. -/
theorem marksOnlyFromForbiddenInputs : Obligations.MarksOnlyFromForbiddenInputs := by
  intro s t h hne hr
  rcases step_cases h with ⟨f, rest, i, hready, hd, h⟩ | ⟨_, _, _, rfl⟩ | ⟨rest, hready, _⟩ | ⟨_, _, rfl⟩ |
    ⟨_, ⟨_, h⟩ | ⟨_, h⟩ | ⟨_, h⟩⟩
  · have hw : i.WellFormed := decodedIsWellFormed s.cfg.csAssertLevel (.form f) i hd
    exact ⟨f, rest, i, hready, hd, exec_fault_cases (s := { s with host := rest }) hw h hne⟩
  · exact absurd rfl hne
  · exact absurd ⟨rest, hready⟩ hr
  · exact absurd rfl hne
  all_goals exact absurd (exec_busEvent_callFrame rfl h).fault hne

/-! ### BusError (60_exceptions.md R131) -/

/-- From `s` to `t` the collaborator call of the phase returned `Err`: `es` is the failed call's event and the end, and
the request is over (41_framing.md R109). -/
def State.CallFailed (s t : State) (es : List Event) : Prop :=
  t.result = .busError ∧ t.phase = .idle ∧ s.answers.head? = some .err ∧
    ((s.phase = .assert ∧ t.cs = .unknown ∧ es = [.cs .assert .err, .callEnd .busError]) ∨
     (s.phase = .write ∧ t.cs = s.cs ∧ ∃ bytes, es = [.write bytes .err, .callEnd .busError]) ∨
     (s.phase = .deassert ∧ t.cs = .unknown ∧ es = [.cs .deassert .err, .callEnd .busError]))

/-- From `s` to `t` the trace grows, and by the end of a request with BusError only where a call failed. -/
def State.BusErrorByCall (s t : State) : Prop :=
  ∃ es : List Event, t.trace = s.trace ++ es ∧ (.callEnd .busError ∈ es → s.CallFailed t es)

/-- Nothing is logged. -/
theorem State.BusErrorByCall.of_trace_eq {s t : State} (h : t.trace = s.trace) : s.BusErrorByCall t :=
  ⟨[], by simp [h], nofun⟩

/-- A call that returned `Ok` and logged its event, and after which CSF advances. -/
theorem State.BusErrorByCall.of_advance {s u : State} {e : Event} (he : e ≠ .callEnd .busError)
    (hu : u.trace = s.trace ++ [e]) : s.BusErrorByCall (advance u) := by
  rcases advance_trace_cases u with ⟨ht, _⟩ | ⟨ht, _, _⟩
  · exact ⟨[e], ht.trans hu, by simp [he.symm]⟩
  · exact ⟨[e, .callEnd .ok], by simp [ht, hu], by simp [he.symm]⟩

theorem accept_busErrorByCall (bytes : List Byte) (isCommand : Bool) (s : State) :
    s.BusErrorByCall (accept bytes isCommand s) := by
  rcases accept_cases bytes isCommand s with ⟨_, h⟩ | ⟨_, _, h⟩ | ⟨_, _, h⟩ <;> rw [h]
  · exact .of_trace_eq rfl
  · exact ⟨_, rfl, by simp⟩
  · exact ⟨_, rfl, by simp⟩

theorem csAssert_busErrorByCall {s : State} (hp : s.phase = .assert) :
    s.BusErrorByCall (collaboratorCall csAssertReturned s) := by
  rcases csAssert_cases s with ⟨_, h⟩ | ⟨_, _, h⟩ | ⟨_, ha, h⟩ <;> rw [h]
  · exact .of_trace_eq rfl
  · exact ⟨_, rfl, by simp⟩
  · exact ⟨_, rfl, fun _ => ⟨rfl, rfl, by simp [ha], .inl ⟨hp, rfl, rfl⟩⟩⟩

theorem busWrite_busErrorByCall {s : State} (hp : s.phase = .write) :
    s.BusErrorByCall (collaboratorCall busWriteReturned (latchBlock s)) := by
  rcases busWrite_cases s with ⟨_, h⟩ | ⟨_, _, _, h⟩ | ⟨_, _, _, h⟩ | ⟨_, ha, h⟩ <;> rw [h]
  · exact .of_trace_eq rfl
  · exact ⟨_, rfl, by simp⟩
  · exact .of_advance (by simp) rfl
  · exact ⟨_, rfl, fun _ => ⟨rfl, rfl, by simp [ha], .inr (.inl ⟨hp, rfl, _, rfl⟩)⟩⟩

theorem csDeassert_busErrorByCall {s : State} (hp : s.phase = .deassert) :
    s.BusErrorByCall (collaboratorCall csDeassertReturned s) := by
  rcases csDeassert_cases s with ⟨_, h⟩ | ⟨_, _, h⟩ | ⟨_, ha, h⟩ <;> rw [h]
  · exact .of_trace_eq rfl
  · exact .of_advance (by simp) rfl
  · exact ⟨_, rfl, fun _ => ⟨rfl, rfl, by simp [ha], .inr (.inr ⟨hp, rfl, rfl⟩)⟩⟩

theorem exec_busErrorByCall {i : Instr} {s t : State} (h : exec i s = .next t) : s.BusErrorByCall t := by
  rcases exec_cases h with ⟨p, _, rfl⟩ | ⟨bytes, isCommand, _, _, rfl⟩ | ⟨_, hp, _, rfl⟩ | ⟨_, hp, rfl⟩ |
    ⟨_, hp, _, rfl⟩
  · exact .of_trace_eq (presentPorts_trace s p)
  · exact accept_busErrorByCall bytes isCommand s
  · exact csAssert_busErrorByCall hp
  · exact busWrite_busErrorByCall hp
  · exact csDeassert_busErrorByCall hp

theorem step_busErrorByCall {s t : State} (hr : ¬ s.TakesReset) (h : step s = .next t) : s.BusErrorByCall t := by
  rcases step_of_not_takesReset hr h with rfl | ⟨rest, rfl⟩ | ⟨i, h⟩ | ⟨i, rest, h⟩
  · exact .of_trace_eq rfl
  · exact .of_trace_eq rfl
  · exact exec_busErrorByCall h
  · exact exec_busErrorByCall (s := { s with host := rest }) h

/-- Settles O46: a reset leaves no event, and what any other step appends is known. -/
theorem busErrorOnlyFromFailingCalls : Obligations.BusErrorOnlyFromFailingCalls := by
  intro s t es h htrace hend
  by_cases hr : s.TakesReset
  · obtain ⟨_, rest, rfl⟩ := step_of_takesReset hr h
    have hnone : es = [] := (List.append_eq_nil_iff.mp htrace.symm).2
    simp [hnone] at hend
  · obtain ⟨es', htrace', hfailed⟩ := step_busErrorByCall hr h
    obtain rfl : es' = es := List.append_cancel_left (htrace'.symm.trans htrace)
    exact hfailed hend

end Sys2Proof.Machine
end

section
/-! PROOFS about reset, waiting and the stops of a step (70_reset_and_hazards.md R150, R152, 60_exceptions.md R130), and
that a request ends if the collaborators respond (R162). -/

namespace Sys2Proof

/-! ### The formats the host presents -/

theorem format_decodePorts (c : Bit) (n : BitVec 4) (d : Lanes) : (decodePorts c n d).format = .encoderPort := by
  rcases decodePorts_cases c n d with ⟨_, h⟩ | ⟨_, _, h⟩ | ⟨_, h⟩ <;> rw [h] <;> rfl

theorem format_decodeRequest (r : Request) : (decodeRequest r).format = .request := by
  cases r <;> rfl

theorem format_decodeWord9 (w : Word9) : (decodeWord9 w).format = .wire9 := by
  obtain ⟨p, ⟨_, h⟩ | ⟨_, h⟩⟩ := decodeWord9_cases w <;> rw [h] <;> rfl

theorem format_of_decodePayload {p : Byte} {i : Instr} (h : decodePayload p = .ok i) : i.format = .payloadByte := by
  obtain ⟨v, _, hd⟩ | ⟨_, hd⟩ := decodePayload_cases p <;> rw [hd] at h <;> cases h
  rfl

/-- The host presents no bus event: those are CSF's own calls (30_encoding.md R68). -/
theorem format_ne_busEvent_of_decodeForm {f : Form} {i : Instr} (h : decodeForm f = .ok i) :
    i.format ≠ .busEvent := by
  cases f with
  | encoderPort c n d => cases h; simp [format_decodePorts]
  | request r => cases h; simp [format_decodeRequest]
  | wire9 w => cases h; simp [format_decodeWord9]
  | payloadByte p => simp [format_of_decodePayload h]
  | bits nbits w =>
    rcases decodeBits_cases h with rfl | h | rfl
    · simp [format_decodePorts]
    · simp [format_of_decodePayload h]
    · simp [format_decodeWord9]

end Sys2Proof

namespace Sys2Proof.Machine

/-! ### Waiting, and reset as an input (70_reset_and_hazards.md R150, R152) -/

theorem hostReady_nil {s : State} (h : s.host = []) : s.hostReady = none := by
  simp [State.hostReady, h]

theorem applyPowerUp_idle {s : State} (h : s.phase = .idle) : applyPowerUp s = .next s.powerUp := if_pos h

theorem applyPowerUp_busy {s : State} (h : s.phase ≠ .idle) : applyPowerUp s = .refused .resetInProgress := if_neg h

/-- Settles O34: in IDLE CSF has no call to make, and a delay is taken off the host's list. -/
theorem stepWaitsOrDelays : Obligations.StepWaitsOrDelays := by
  intro s hp
  refine ⟨fun hnil => ?_, fun us a rest hs => step_delay (hostReady_cons hs (.inl hp))⟩
  rw [step_call (hostReady_nil hnil), hp]

/-- Settles O35: the power-up reaches the block in IDLE, and at once in mid-request. -/
theorem powerUpResetsCsf : Obligations.PowerUpResetsCsf := by
  refine fun s rest => ⟨fun a hs hp => ?_, fun hs hp => ?_⟩
  · exact (step_powerUp (hostReady_cons hs (.inl hp))).trans (applyPowerUp_idle hp)
  · exact (step_powerUp (hostReady_cons hs (.inr rfl))).trans (applyPowerUp_busy hp)

/-! ### Where a step stops -/

/-- Every operation but CSF's own calls gives a next state, whatever CSF is doing. -/
theorem exec_next_of_not_busEvent {i : Instr} (hi : i.format ≠ .busEvent) (s : State) : ∃ t, exec i s = .next t := by
  cases i with
  | csAssert | busWrite | csDeassert => exact absurd rfl hi
  | _ => exact ⟨_, rfl⟩

/-- A step to which nothing of the host's comes gives a next state: CSF waits or makes the call of its phase. -/
theorem State.Inv.step_next_of_not_hostReady {s : State} (hs : s.Inv) (hr : s.hostReady = none) :
    ∃ t, step s = .next t := by
  by_cases hp : s.phase = .idle
  · exact ⟨s, by rw [step_call hr, hp]⟩
  · obtain ⟨t, hstep, _⟩ := (hs.serving hp).step_call hr
    exact ⟨t, hstep⟩

/-- Everything a step from the invariant can answer: a next state, or one of the two refusals. -/
theorem State.Inv.step_outcomes {s : State} (hs : s.Inv) :
    (∃ t, step s = .next t) ∨
    (step s = .refused .resetInProgress ∧ s.phase ≠ .idle ∧ s.TakesReset) ∨
    ∃ f rest why, s.hostReady = some (.present f, rest) ∧ decodeForm f = .error why ∧
      step s = .refused (.undecodable why) := by
  rcases hr : s.hostReady with _ | ⟨op, rest⟩
  · exact .inl (hs.step_next_of_not_hostReady hr)
  · cases op with
    | present f =>
      have hstep := step_present hr
      cases hd : decodeForm f with
      | ok i =>
        obtain ⟨t, ht⟩ := exec_next_of_not_busEvent (format_ne_busEvent_of_decodeForm hd) { s with host := rest }
        rw [hd] at hstep
        exact .inl ⟨t, hstep.trans ht⟩
      | error why =>
        rw [hd] at hstep
        exact .inr (.inr ⟨f, rest, why, rfl, hd, hstep⟩)
    | delay us => exact .inl ⟨_, step_delay hr⟩
    | powerUp =>
      have hstep := step_powerUp hr
      by_cases hp : s.phase = .idle
      · exact .inl ⟨_, hstep.trans (applyPowerUp_idle hp)⟩
      · exact .inr (.inl ⟨hstep.trans (applyPowerUp_busy hp), hp, rest, hr⟩)

/-- Settles O40: of the three answers of a step none is a fault, and the two refusals are the two named. -/
theorem stepStopsOnlyOnBadInput : Obligations.StepStopsOnlyOnBadInput := by
  intro s hs
  rcases hs.step_outcomes with ⟨t, h⟩ | ⟨h, hp, hreset⟩ | ⟨f, rest, why, hr, hd, h⟩ <;> rw [h]
  · exact ⟨nofun, nofun⟩
  · refine ⟨nofun, fun r hrefused => ?_⟩
    cases hrefused
    exact .inl ⟨rfl, hp, hreset⟩
  · refine ⟨nofun, fun r hrefused => ?_⟩
    cases hrefused
    exact .inr ⟨f, rest, why, hr, hd, rfl⟩

/-! ### A request ends if the collaborators respond (70_reset_and_hazards.md R162) -/

/-- CSF is IDLE with the result of the request that its last event ended (41_framing.md R117). -/
def State.Ended (s : State) : Prop :=
  s.phase = .idle ∧ s.result ≠ .none ∧ s.trace.getLast? = some (.callEnd s.result)

theorem State.CallFrame.calls_eq {s t : State} (h : s.CallFrame t) : t.calls = s.calls := by
  rw [State.calls, State.calls, h.cfg, h.c, h.req]

/-- A call that returns goes on to the request's next call or ends it. -/
theorem State.CallTo.goesOn_or_ended {s t : State} (h : s.CallTo t) (ha : s.answers ≠ []) :
    (t.Serving ∧ t.callsMade.length = s.callsMade.length + 1) ∨ t.Ended := by
  cases h with
  | stalled hno => exact absurd hno ha
  | goesOn _ serving made => exact .inl ⟨serving, by simp [made]⟩
  | finishes _ _ phase trace result => exact .inr ⟨phase, by simp [result], by simp [trace, result]⟩
  | fails _ _ phase trace result => exact .inr ⟨phase, by simp [result], by simp [trace, result]⟩

/-- A request in progress with at most `n` calls to make, each answered, ends within `n` steps: every call that does not
end it leaves one call less. -/
theorem State.Serving.ends {n : Nat} {s : State} (hs : s.Serving) (hhost : s.host = [])
    (hcalls : s.calls.length ≤ s.callsMade.length + n) (hresp : s.CollabResponds n) :
    ∃ k t, k ≤ n ∧ runSteps k s = .next t ∧ t.Ended := by
  induction n generalizing s with
  | zero => exact absurd hs.length_callsMade_lt (Nat.not_lt.mpr hcalls)
  | succ n ih =>
    have hresp : n + 1 ≤ s.answers.length := hresp
    obtain ⟨t, hstep, hframe, hcall⟩ := hs.step_call (hostReady_nil hhost)
    rcases hcall.goesOn_or_ended (List.length_pos_iff.mp (by omega)) with ⟨hserving, hmade⟩ | hended
    · have hresp' : n ≤ t.answers.length := by
        rw [hframe.answers, List.length_tail]
        omega
      obtain ⟨k, u, hk, hrun, hended⟩ :=
        ih hserving (hframe.host.trans hhost) (by rw [hframe.calls_eq, hmade]; omega) hresp'
      exact ⟨k + 1, u, Nat.succ_le_succ hk, (runSteps_succ hstep).trans hrun, hended⟩
    · exact ⟨1, t, Nat.le_add_left 1 n, runSteps_succ hstep, hended⟩

/-- Settles O56: a request has no more calls left than it makes in all. -/
theorem requestEndsIfCollaboratorsRespond : Obligations.RequestEndsIfCollaboratorsRespond := by
  intro s hs hp hhost hresp
  have hcalls : s.calls.length = callCount s.cfg.hasCs s.req.length := length_callEvents _ _ _
  exact (hs.serving hp).ends hhost (by omega) hresp

end Sys2Proof.Machine
end
